-- ==== Sys2Proof/Word.lean ====
section
/-! DEFINITION. The word types of RSEQ-CORE (00_scope.md R10, R15, R16). -/

namespace Sys2Proof

/-- The `u64` of the pseudocode: a 64-bit bit pattern, read as unsigned, wrapping (R16). -/
abbrev Word := BitVec 64

/-- One byte of a seed or state byte sequence (R57). -/
abbrev Byte := BitVec 8

/-- An array of four 64-bit words, `XS[0..3]`, `SB[0..3]`, `RB[0..3]` and the like (R15, R22). -/
structure Quad where
  w0 : Word
  w1 : Word
  w2 : Word
  w3 : Word
  deriving DecidableEq, Repr, Inhabited

/-- Four zero words. -/
def Quad.zero : Quad := ⟨0, 0, 0, 0⟩

end Sys2Proof
end

