-- ==== Sys2Proof/Syntax.lean ====
section
/-! DEFINITION. The whole syntax: the commands of the opcode table, the fields of a command word, the registers a host can
name, the bus transactions and the host-program statements (30_encoding.md). -/

namespace Sys2Proof

/-- The 22 commands (30_encoding.md R74), one constructor for each row of spec/opcode_table.json. A command has no operand
field: every operand is implicit (R71). -/
inductive Instr where
  /-- `LCG.SEED`, R111 -/
  | lcgSeed
  /-- `LCG.SETST`, R112 -/
  | lcgSetst
  /-- `LCG.GETST`, R113 -/
  | lcgGetst
  /-- `LCG.GEN32`, R114 -/
  | lcgGen32
  /-- `LCG.GEN64`, R115 -/
  | lcgGen64
  /-- `PCG.SEED`, R131 -/
  | pcgSeed
  /-- `PCG.SETST`, R132 -/
  | pcgSetst
  /-- `PCG.GETST`, R133 -/
  | pcgGetst
  /-- `PCG.GEN32`, R134 -/
  | pcgGen32
  /-- `PCG.GEN64`, R135 -/
  | pcgGen64
  /-- `XOS.SEED`, R150 -/
  | xosSeed
  /-- `XOS.SETST`, R152 -/
  | xosSetst
  /-- `XOS.GETST`, R153 -/
  | xosGetst
  /-- `XOS.GEN32`, R154 -/
  | xosGen32
  /-- `XOS.GEN64`, R156 -/
  | xosGen64
  /-- `XOS.JUMP`, R157 -/
  | xosJump
  /-- `XOS.LJUMP`, R159 -/
  | xosLjump
  /-- `XOS.SPLIT`, R158 -/
  | xosSplit
  /-- `BBS.SEED`, R181 -/
  | bbsSeed
  /-- `BBS.SETST`, R183 -/
  | bbsSetst
  /-- `BBS.GETST`, R184 -/
  | bbsGetst
  /-- `BBS.NEXT`, R185 -/
  | bbsNext
  deriving DecidableEq, Repr

/-- The engines of the `ENG` field (R72). -/
inductive Engine where
  | lcg | pcg | xos | bbs
  deriving DecidableEq, Repr

/-- The functions of the `FN` field (R73). `gen64` is function code 5, which BBS spells `NEXT`. -/
inductive Fn where
  | seed | setst | getst | gen32 | gen64 | jump | ljump | split
  deriving DecidableEq, Repr

/-- One cell of the engine-by-function map (R75), legal or not: the two fields of a command word. -/
structure Cell where
  engine : Engine
  fn : Fn
  deriving DecidableEq, Repr

/-- The registers a host can name (R52, R78). -/
inductive Reg where
  | cmd
  | status
  | sblen
  | sb (i : Fin 4)
  | res
  | rblen
  | rb (i : Fin 4)
  deriving DecidableEq, Repr

/-- A host access as the window receives it: a host address, a width in bytes and, for a write, the data (R51, R56). It may be
ill-formed: the CORE answers such an access with a bus error (R53). -/
inductive Access where
  | read (addr size : Nat)
  | write (addr size : Nat) (data : Word)
  deriving DecidableEq, Repr

/-- A host-program statement (R78) or pseudo-statement (R79). They name bus transactions and are no instructions of the CORE. -/
inductive HostStmt where
  /-- `WR reg, imm64` -/
  | wr (r : Reg) (v : Word)
  /-- `RD reg` -/
  | rd (r : Reg)
  /-- `CMD mnemonic` -/
  | cmd (i : Instr)
  /-- `SEEDW n, w0` -/
  | seedw1 (n w0 : Word)
  /-- `SEEDW n, w0, w1, w2, w3` -/
  | seedw4 (n w0 w1 w2 w3 : Word)
  /-- `SEEDB b0, b1, ..., b(n-1)` -/
  | seedb (bytes : List Byte)
  /-- `CHECK` -/
  | check
  /-- `COPYSTATE` -/
  | copystate
  deriving DecidableEq, Repr

end Sys2Proof
end

