-- ==== Sys2Proof/Config.lean ====
section
/-! DEFINITION. What an implementation fixes and what the spec leaves open: the parameters of 00_scope.md R14 with their
defaults, the constants of R11 and R12, the reset draw of 10_state.md R44 and the open cycle counts of 70_reset_and_hazards.md
R243. -/

namespace Sys2Proof

/-- Which half of a 64-bit result a `GEN32` of a 64-bit-native engine returns: the domain of `GEN32_HALF_LCG` and
`GEN32_HALF_XOS` (R14, decision D15). -/
inductive Half where
  | low | high
  deriving DecidableEq, Repr

/-- The parameters the model takes as arguments (R14). `ENTROPY` is an argument of reset instead, and the cycle counts `T_*`
are `Config.cycles`. -/
structure Params where
  /-- `CORE_BASE`, the host address of the window. OPEN. -/
  coreBase : Nat
  /-- `GEN32_HALF_LCG` -/
  gen32HalfLcg : Half
  /-- `GEN32_HALF_XOS` -/
  gen32HalfXos : Half
  /-- `JUMP_POLY[0..3]` (R13) -/
  jumpPoly : Quad
  /-- `LONG_JUMP_POLY[0..3]` (R13) -/
  longJumpPoly : Quad
  /-- `BBS_SEED_SIGNED` (R180) -/
  bbsSeedSigned : Bool
  deriving DecidableEq, Repr

/-- The defaults of R13 and R14. DESIGN CHOICE (unsafe, log 2): `CORE_BASE` is OPEN in the spec, and stands at 0 here.
PRESUMED (unsafe, log 16): the jump polynomials are what R13 gives from general knowledge. -/
def Params.default : Params where
  coreBase := 0
  gen32HalfLcg := .low
  gen32HalfXos := .low
  jumpPoly := ⟨0x180EC6D33CFD0ABA, 0xD5A61266F0C9392C, 0xA9582618E03FC9AA, 0x39ABDC4529B1661C⟩
  longJumpPoly := ⟨0x76E15D3EFEFDCBBF, 0xC5004E441C522FB3, 0x77710069854EE241, 0x39109BB02ACBE635⟩
  bbsSeedSigned := false

/-- `ENTROPY`, the free input of reset, under no law (10_state.md R44). -/
structure Entropy where
  lcg : Word
  pcg : Word
  xos : Quad
  bbs : Word
  deriving DecidableEq, Repr, Inhabited

/-- The draw of the reset that `State.reset` stands for: a free value (R231; log 3), with no body that a proof could use. -/
opaque Config.entropy : Entropy

/-- The cycle counts `T_<mnemonic>` (R14, R243): OPEN parameters. No rule of the spec depends on them and neither does the
model (log 18). -/
opaque Config.cycles : Instr → Nat

/-- `m`, the modulus of the squaring engine (R12). -/
def Config.bbsM : Int := 67280421310721 * 274177

/-- `R = 2^64`, the range bound of the rejection filter (R12). -/
def Config.bbsR : Int := 2 ^ 64

/-- `MUL` (R11). -/
def Config.lcgMul : Word := 6364136223846793005#64

/-- `INC` (R11). -/
def Config.lcgInc : Word := 1442695040888963407#64

/-- The bytes of the window: offsets `0x00` to `0xFF` (20_memory.md R50). -/
def Config.windowBytes : Nat := 256

end Sys2Proof
end

