-- ==== Sys2Proof/WellFormed.lean ====
section
/-! DEFINITION. The well-formedness checks: a legal cell of the opcode map (30_encoding.md R75), a well-formed host access
(20_memory.md R53), well-formed parameters (20_memory.md R50) and a well-formed host-program statement. A command itself has no
operand (R71), so every term of `Instr` is well formed: the checks stand on its encoded fields and on the accesses that
carry it. -/

namespace Sys2Proof

/-- The engine-by-function map (R75): LCG64 and PCG have no jump and no split; BBS has no `GEN32`, no jump and no split. -/
def Cell.legal (c : Cell) : Bool :=
  match c.fn with
  | .seed => true
  | .setst => true
  | .getst => true
  | .gen64 => true
  | .gen32 => c.engine != .bbs
  | .jump => c.engine == .xos
  | .ljump => c.engine == .xos
  | .split => c.engine == .xos

/-- `CORE_BASE` is 256-byte aligned (R50). -/
def Params.wf (p : Params) : Bool := p.coreBase % Config.windowBytes == 0

/-- The address of an access. -/
def Access.addr : Access → Nat
  | .read a _ => a
  | .write a _ _ => a

/-- The width of an access in bytes. -/
def Access.size : Access → Nat
  | .read _ n => n
  | .write _ n _ => n

/-- The first condition of R53: the access is 8 bytes wide. -/
def Access.wide (a : Access) : Bool := a.size == 8

/-- The second condition of R53: its offset is a multiple of 8. -/
def Access.aligned (p : Params) (a : Access) : Bool := ((a.addr : Int) - p.coreBase) % 8 == 0

/-- The third condition of R53: its offset is within `0x00..0xF8`. -/
def Access.inWindow (p : Params) (a : Access) : Bool :=
  decide (p.coreBase ≤ a.addr) && decide (a.addr ≤ p.coreBase + 0xF8)

/-- The three conditions of R53. -/
def Access.wf (p : Params) (a : Access) : Bool := a.wide && a.aligned p && a.inWindow p

end Sys2Proof
end

