-- ==== Sys2Proof/Decode.lean ====
section
/-! DEFINITION. The decoder of a command word, total on all 64-bit values and rejecting by name, and after it the encoder
(30_encoding.md R70 to R77). -/

namespace Sys2Proof

/-- Why a command word is illegal (R76). All four are the one error `IllegalCommand` of the machine (60_exceptions.md R201). -/
inductive Illegal where
  /-- `v[63:8]`, the field `MBZ`, is not zero (R70). -/
  | mustBeZero
  /-- `ENG` is 4 to 15, reserved (R72). -/
  | reservedEngine
  /-- `FN` is 0 or 9 to 15, reserved (R73). -/
  | reservedFunction
  /-- The engine has no such function: a dash of the map R75. -/
  | emptyCell
  deriving DecidableEq, Repr

/-- `MBZ = v[63:8]` (R70). -/
def fieldMbz (v : Word) : BitVec 56 := v.extractLsb' 8 56

/-- `ENG = v[7:4]` (R70). -/
def fieldEng (v : Word) : BitVec 4 := v.extractLsb' 4 4

/-- `FN = v[3:0]` (R70). -/
def fieldFn (v : Word) : BitVec 4 := v.extractLsb' 0 4

/-- The engine of an `ENG` field, none for the reserved 4 to 15 (R72). -/
def engineOf (e : BitVec 4) : Option Engine :=
  match e.toNat with
  | 0 => some .lcg
  | 1 => some .pcg
  | 2 => some .xos
  | 3 => some .bbs
  | _ => none

/-- The function of an `FN` field, none for the reserved 0 and 9 to 15 (R73). -/
def fnOf (f : BitVec 4) : Option Fn :=
  match f.toNat with
  | 1 => some .seed
  | 2 => some .setst
  | 3 => some .getst
  | 4 => some .gen32
  | 5 => some .gen64
  | 6 => some .jump
  | 7 => some .ljump
  | 8 => some .split
  | _ => none

/-- The command of a cell of the map R75, none for a dash. -/
def instrOf (c : Cell) : Option Instr :=
  match c.engine, c.fn with
  | .lcg, .seed => some .lcgSeed
  | .lcg, .setst => some .lcgSetst
  | .lcg, .getst => some .lcgGetst
  | .lcg, .gen32 => some .lcgGen32
  | .lcg, .gen64 => some .lcgGen64
  | .lcg, .jump => none
  | .lcg, .ljump => none
  | .lcg, .split => none
  | .pcg, .seed => some .pcgSeed
  | .pcg, .setst => some .pcgSetst
  | .pcg, .getst => some .pcgGetst
  | .pcg, .gen32 => some .pcgGen32
  | .pcg, .gen64 => some .pcgGen64
  | .pcg, .jump => none
  | .pcg, .ljump => none
  | .pcg, .split => none
  | .xos, .seed => some .xosSeed
  | .xos, .setst => some .xosSetst
  | .xos, .getst => some .xosGetst
  | .xos, .gen32 => some .xosGen32
  | .xos, .gen64 => some .xosGen64
  | .xos, .jump => some .xosJump
  | .xos, .ljump => some .xosLjump
  | .xos, .split => some .xosSplit
  | .bbs, .seed => some .bbsSeed
  | .bbs, .setst => some .bbsSetst
  | .bbs, .getst => some .bbsGetst
  | .bbs, .gen32 => none
  | .bbs, .gen64 => some .bbsNext
  | .bbs, .jump => none
  | .bbs, .ljump => none
  | .bbs, .split => none

/-- The decoder: every 64-bit value is exactly one legal command or illegal, and why (R76, R77). -/
def decode (v : Word) : Except Illegal Instr :=
  if fieldMbz v ≠ 0 then .error .mustBeZero
  else
    match engineOf (fieldEng v) with
    | none => .error .reservedEngine
    | some e =>
      match fnOf (fieldFn v) with
      | none => .error .reservedFunction
      | some f =>
        match instrOf ⟨e, f⟩ with
        | none => .error .emptyCell
        | some i => .ok i

/-- The cell a command stands in (R75). -/
def Instr.cell : Instr → Cell
  | .lcgSeed => ⟨.lcg, .seed⟩
  | .lcgSetst => ⟨.lcg, .setst⟩
  | .lcgGetst => ⟨.lcg, .getst⟩
  | .lcgGen32 => ⟨.lcg, .gen32⟩
  | .lcgGen64 => ⟨.lcg, .gen64⟩
  | .pcgSeed => ⟨.pcg, .seed⟩
  | .pcgSetst => ⟨.pcg, .setst⟩
  | .pcgGetst => ⟨.pcg, .getst⟩
  | .pcgGen32 => ⟨.pcg, .gen32⟩
  | .pcgGen64 => ⟨.pcg, .gen64⟩
  | .xosSeed => ⟨.xos, .seed⟩
  | .xosSetst => ⟨.xos, .setst⟩
  | .xosGetst => ⟨.xos, .getst⟩
  | .xosGen32 => ⟨.xos, .gen32⟩
  | .xosGen64 => ⟨.xos, .gen64⟩
  | .xosJump => ⟨.xos, .jump⟩
  | .xosLjump => ⟨.xos, .ljump⟩
  | .xosSplit => ⟨.xos, .split⟩
  | .bbsSeed => ⟨.bbs, .seed⟩
  | .bbsSetst => ⟨.bbs, .setst⟩
  | .bbsGetst => ⟨.bbs, .getst⟩
  | .bbsNext => ⟨.bbs, .gen64⟩

/-- The engine number (R72). -/
def engineCode : Engine → BitVec 4
  | .lcg => 0
  | .pcg => 1
  | .xos => 2
  | .bbs => 3

/-- The function code (R73). -/
def fnCode : Fn → BitVec 4
  | .seed => 1
  | .setst => 2
  | .getst => 3
  | .gen32 => 4
  | .gen64 => 5
  | .jump => 6
  | .ljump => 7
  | .split => 8

/-- The opcode `OP = {ENG, FN}` (R70). -/
def opcode (c : Cell) : BitVec 8 := engineCode c.engine ++ fnCode c.fn

/-- The encoder: the command word of a command is `zext_64(OP)` (R74). -/
def encode (i : Instr) : Word := (opcode i.cell).setWidth 64

/-- What the decoder reads from an instruction of `nbits` bits, numbered as spec/opcode_table.json numbers them. A command word is
ONE 64-bit datum of one bus write (R70, R77), so its bits are the datum's own and no byte order enters. -/
def decodeTableWord (nbits w : Nat) : Option Instr :=
  match decode (BitVec.ofNat 64 (w % 2 ^ nbits)) with
  | .ok i => some i
  | .error _ => none

end Sys2Proof
end

