-- ==== Sys2Proof/Machine/Bits.lean ====
section
/-! DEFINITION. The bit-field, rotation, byte-order and sign helpers of the pseudocode (00_scope.md R15 to R17), which need no
machine state. -/

namespace Sys2Proof.Machine

/-- `rotl64(x, k)` (R16). -/
def rotl64 (x : Word) (k : Nat) : Word := (x <<< (k % 64)) ||| (x >>> ((64 - k % 64) % 64))

/-- `rotr32(x, k)`, rotating right by `k mod 32` (R16). -/
def rotr32 (x : BitVec 32) (k : Nat) : BitVec 32 := (x >>> (k % 32)) ||| (x <<< ((32 - k % 32) % 32))

/-- Word `i` of an array of four (R15). -/
def quadWord (q : Quad) (i : Fin 4) : Word :=
  match i with
  | 0 => q.w0
  | 1 => q.w1
  | 2 => q.w2
  | 3 => q.w3

/-- An array of four with word `i` replaced. -/
def quadSet (q : Quad) (i : Fin 4) (v : Word) : Quad :=
  match i with
  | 0 => { q with w0 := v }
  | 1 => { q with w1 := v }
  | 2 => { q with w2 := v }
  | 3 => { q with w3 := v }

/-- The word-by-word exclusive or of two arrays (43_xoshiro.md R155). -/
def quadXor (a b : Quad) : Quad := ⟨a.w0 ^^^ b.w0, a.w1 ^^^ b.w1, a.w2 ^^^ b.w2, a.w3 ^^^ b.w3⟩

/-- Coefficient `k` of a jump polynomial: bit `k mod 64` of word `k div 64` (00_scope.md R13). -/
def polyBit (poly : Quad) (k : Nat) : Bool := (quadWord poly (Fin.ofNat 4 (k / 64))).getLsbD (k % 64)

/-- The 32 bits a `GEN32` of a 64-bit-native engine returns (41_lcg64.md R114, 43_xoshiro.md R154). -/
def halfOf (h : Half) (w : Word) : BitVec 32 :=
  match h with
  | .low => w.extractLsb' 0 32
  | .high => w.extractLsb' 32 32

/-- `BE64(b0, ..., b7)`, `b0` the most significant byte (R17). -/
def be64 (b0 b1 b2 b3 b4 b5 b6 b7 : Byte) : Word := b0 ++ b1 ++ b2 ++ b3 ++ b4 ++ b5 ++ b6 ++ b7

/-- Byte `k` of a word, counted from the most significant end (20_memory.md R57). -/
def wordByte (w : Word) (k : Nat) : Byte := w.extractLsb' (56 - 8 * (k % 8)) 8

/-- `Bytes64(w)`, the inverse of `BE64` (R17). -/
def bytes64 (w : Word) : List Byte :=
  [wordByte w 0, wordByte w 1, wordByte w 2, wordByte w 3, wordByte w 4, wordByte w 5, wordByte w 6, wordByte w 7]

/-- Byte `k` of the 32 bytes an array of four holds: byte `k mod 8` of word `k div 8` (10_state.md R29, R32; 20_memory.md
R57). -/
def quadByte (q : Quad) (k : Nat) : Byte := wordByte (quadWord q (Fin.ofNat 4 (k / 8))) k

/-- The `i`-th 64-bit word of a byte sequence, a byte past its end taken as 0 (30_encoding.md R79, `SEEDB`). -/
def packWord (bytes : List Byte) (i : Nat) : Word :=
  let b := fun j => bytes.getD (8 * i + j) 0
  be64 (b 0) (b 1) (b 2) (b 3) (b 4) (b 5) (b 6) (b 7)

/-- `SeedValue(w)`: the integer a 64-bit seed or state word stands for (44_bbs.md R180). -/
def seedValue (p : Params) (w : Word) : Int := if p.bbsSeedSigned then w.toInt else (w.toNat : Int)

/-- `BBS_C` holding an integer of `[-2^63, 2^64]` (44_bbs.md R180; log 8). -/
def bbsHold (c : Int) : BitVec 66 := BitVec.ofInt 66 c

end Sys2Proof.Machine
end

