-- ==== Sys2Proof/Machine/State.lean ====
section
/-! DEFINITION. The state of one CORE instance as plain data (10_state.md), the inputs and answers of its bus, the reasons a step
can stop, and the state after reset (70_reset_and_hazards.md R230). -/

namespace Sys2Proof.Machine

/-- The codes of `STATUS.ERR` (10_state.md R27, 60_exceptions.md R200). -/
inductive ErrCode where
  /-- 0, the command completed. -/
  | ok
  /-- 1, `SBLEN.LEN` is below the engine's minimum. -/
  | invalidLength
  /-- 2, the command word is not a legal command. -/
  | illegalCommand
  /-- 3, reserved and written by no command and no reset (R200). Only a power event can leave it, since any value may stand after
  one (R214, 93_implementation_defined.md U14; log 13). -/
  | reserved
  deriving DecidableEq, Repr

/-- The registers of the CORE (10_state.md section 5). `CMD` holds no state (R26). -/
structure Regs where
  /-- `LCG_S` (R20) -/
  lcgS : Word
  /-- `PCG_S` (R21) -/
  pcgS : Word
  /-- `XS[0..3]` (R22) -/
  xs : Quad
  /-- `BBS_C` (R23), in two's complement: 65 bits unsigned, or 66 bits signed when `BBS_SEED_SIGNED` (44_bbs.md R180; log 8) -/
  bbsC : BitVec 66
  /-- `STATUS.ERR` (R27) -/
  err : ErrCode
  /-- `SBLEN.LEN` (R28) -/
  sbLen : BitVec 16
  /-- `SB[0..3]` (R29) -/
  sb : Quad
  /-- `RES` (R30) -/
  res : Word
  /-- `RBLEN.LEN` (R31) -/
  rbLen : BitVec 6
  /-- `RB[0..3]` (R32) -/
  rb : Quad
  /-- `XW[0..3]`, hidden (R35) -/
  xw : Quad
  /-- `XA[0..3]`, hidden (R35) -/
  xa : Quad
  /-- `XJ`, hidden (R35) -/
  xj : BitVec 9
  deriving DecidableEq, Repr

/-- The hidden registers of the Xoshiro jump unit together (R35): what `XorJump` works on, and the unspecified values they have
after a reset. -/
structure JumpUnit where
  xw : Quad
  xa : Quad
  xj : BitVec 9
  deriving DecidableEq, Repr

/-- What can reach the CORE from outside. DESIGN CHOICE (unsafe, log 25): a reset comes between two inputs or during a command, never
during another host access, on which the spec is silent. -/
inductive Input where
  /-- A host access (20_memory.md R51, R56). -/
  | access (a : Access)
  /-- The reset input between two accesses (70_reset_and_hazards.md R230): the draw, and the unspecified values the hidden
  registers take (R35). -/
  | reset (draw : Entropy) (hidden : JumpUnit)
  /-- The reset input while the command of the `CMD` write of `v` is in progress (R232): it ends the host step of that write in a
  fault. -/
  | resetDuring (v : Word) (draw : Entropy) (hidden : JumpUnit)
  /-- A power event other than reset: every register is unknown afterwards (60_exceptions.md R214). It comes between two inputs, never
  during a command (log 24). -/
  | power (contents : Regs)
  deriving DecidableEq, Repr

/-- What the bus has answered to a host access. -/
inductive Response where
  /-- The value a read returned (20_memory.md R51). -/
  | data (w : Word)
  /-- A write is done. -/
  | done
  deriving DecidableEq, Repr

/-- The state: the CORE's registers, and the model's own three fields (log 1, log 5, log 6). -/
structure State extends Regs where
  /-- the parameters of 00_scope.md R14 -/
  params : Params
  /-- the inputs still to come, oldest first (20_memory.md R60) -/
  pending : List Input
  /-- the answers given so far, oldest first (70_reset_and_hazards.md R247) -/
  responses : List Response
  deriving DecidableEq, Repr

/-- The reasons a step stops with a fault. -/
inductive Fault where
  /-- A host access that breaks 20_memory.md R53. Raised by `perform` alone. The spec says that a model treats it as a fault of the
  host step and that no CORE state changes (R53, R204). Safe (log 7). -/
  | busError
  /-- The host step of a `CMD` write whose command a reset abandoned. Raised by `perform` alone, on `Input.resetDuring`. The bus
  response is the platform's, and the spec has the model treat that host step as a fault, with the CORE in the reset state
  (70_reset_and_hazards.md R232, 93_implementation_defined.md U15). The fault carries that state, `after`. Safe (log 12). -/
  | abandonedWrite (after : State)
  /-- A host read of `STATUS` that finds `ERR` at the reserved code 3: the run has left the spec, which has the model fault
  (93_implementation_defined.md U5). Raised by `readAccess` alone, and only a power event leads there. Safe (log 11). -/
  | reservedStatus
  deriving DecidableEq, Repr

/-- The reasons a step is refused. -/
inductive Refusal where
  /-- A command without a meaning, rejected by its arm of `exec`; no arm uses it. Safe. -/
  | notModelled (mnemonic : String)
  deriving DecidableEq, Repr

/-- The values `State.reset` gives the hidden registers. DESIGN CHOICE (unsafe, log 4): the spec says they are unspecified and
cannot be observed (R35). -/
def JumpUnit.zero : JumpUnit := ⟨Quad.zero, Quad.zero, 0⟩

/-- The registers after reset (70_reset_and_hazards.md R230). -/
def Regs.afterReset (p : Params) (draw : Entropy) (hidden : JumpUnit) : Regs where
  lcgS := draw.lcg
  pcgS := draw.pcg
  xs := draw.xos
  bbsC := bbsHold (seedValue p draw.bbs)
  err := .ok
  sbLen := 0
  sb := Quad.zero
  res := 0
  rbLen := 0
  rb := Quad.zero
  xw := hidden.xw
  xa := hidden.xa
  xj := hidden.xj

/-- The machine right after the reset of a given draw, nothing pending and nothing answered. -/
def State.resetWith (p : Params) (draw : Entropy) : State where
  toRegs := Regs.afterReset p draw JumpUnit.zero
  params := p
  pending := []
  responses := []

/-- The machine right after reset, with the default parameters (00_scope.md R14) and a free draw (R231; log 3). -/
def State.reset : State := State.resetWith Params.default Config.entropy

end Sys2Proof.Machine
end

