-- ==== Sys2Proof/Machine/Flags.lean ====
section
/-! DEFINITION. The one status field of the CORE, `STATUS.ERR` (10_state.md R27, R34; 60_exceptions.md R200). There are no other
flags. -/

namespace Sys2Proof.Machine

/-- The code of `STATUS.ERR` (R200). -/
def errBits : ErrCode → BitVec 2
  | .ok => 0
  | .invalidLength => 1
  | .illegalCommand => 2
  | .reserved => 3

/-- `STATUS` as a host reads it: `ERR` in bits 1:0, bits 63:2 reserved and 0 (R27). -/
def statusWord (e : ErrCode) : Word := (errBits e).setWidth 64

/-- `STATUS.ERR <- e`: the code replaces the previous one, it is not sticky (R200). -/
def State.setErr (s : State) (e : ErrCode) : State := { s with err := e }

end Sys2Proof.Machine
end

