-- ==== Sys2Proof/Machine/Operands.lean ====
section
/-! DEFINITION. The implicit operands of the commands (30_encoding.md R71): the length, the words and the bytes of the seed buffer,
the integer of the Blum Blum Shub commands, and the bytes of the result buffer. -/

namespace Sys2Proof.Machine

/-- The length of the supplied byte sequence (10_state.md R28). -/
def seedLen (s : State) : Nat := s.sbLen.toNat

/-- `SeedWord(i) = SB[i]` (40_seed_state.md R96): bytes past the engine's minimum are not looked at (R95). -/
def seedWord (s : State) (i : Fin 4) : Word := quadWord s.sb i

/-- The four words of a 32-byte operand in array order (R96). -/
def seedQuad (s : State) : Quad := ⟨seedWord s 0, seedWord s 1, seedWord s 2, seedWord s 3⟩

/-- Byte `k` of the seed buffer, `k` in 0..31 (10_state.md R29). -/
def seedByte (s : State) (k : Nat) : Byte := quadByte s.sb k

/-- The integer operand of a Blum Blum Shub command: `SB[0]`, whatever `SBLEN` is (40_seed_state.md R97, 44_bbs.md R180). -/
def seedInt (s : State) : Int := seedValue s.params (seedWord s 0)

/-- `RequireLen(n)` raises when the supplied length is below `n` (40_seed_state.md R94). -/
def tooShort (n : Nat) (s : State) : Bool := seedLen s < n

/-- The state byte sequence in the result buffer, `RBLEN.LEN` bytes of `RB` (10_state.md R32, 40_seed_state.md R98). -/
def resultBytes (s : State) : List Byte := (List.range s.rbLen.toNat).map (quadByte s.rb)

end Sys2Proof.Machine
end

