-- ==== Sys2Proof/Machine/Ops.lean ====
section
/-! DEFINITION. The shared operations: named register updates, raising an error and completing a command, the length check,
`PutState`, the register window, and the reset and power inputs. -/

namespace Sys2Proof.Machine

/-- The outcomes of this machine. -/
abbrev Result := Host.Outcome State Fault Refusal

/-- `LCG_S <- v` -/
def State.setLcg (s : State) (v : Word) : State := { s with lcgS := v }

/-- `PCG_S <- v` -/
def State.setPcg (s : State) (v : Word) : State := { s with pcgS := v }

/-- `XS <- q` -/
def State.setXs (s : State) (q : Quad) : State := { s with xs := q }

/-- `BBS_C <- c` -/
def State.setBbs (s : State) (c : Int) : State := { s with bbsC := bbsHold c }

/-- `RES <- v` -/
def State.setRes (s : State) (v : Word) : State := { s with res := v }

/-- `SBLEN.LEN <- n` -/
def State.setSbLen (s : State) (n : BitVec 16) : State := { s with sbLen := n }

/-- `SB[i] <- v` -/
def State.setSb (s : State) (i : Fin 4) (v : Word) : State := { s with sb := quadSet s.sb i v }

/-- `RB <- q; RBLEN.LEN <- n` -/
def State.setRb (s : State) (q : Quad) (n : BitVec 6) : State := { s with rb := q, rbLen := n }

/-- The hidden registers of the jump unit (10_state.md R35). That a jump leaves values in them at rest is a choice (log 23). -/
def State.setJumpUnit (s : State) (u : JumpUnit) : State := { s with xw := u.xw, xa := u.xa, xj := u.xj }

/-- All registers at once, the model's own fields kept. -/
def State.setRegs (s : State) (r : Regs) : State := { s with toRegs := r }

/-- The inputs still to come. -/
def State.setPending (s : State) (l : List Input) : State := { s with pending := l }

/-- The bus answers. -/
def State.respond (s : State) (r : Response) : State := { s with responses := s.responses ++ [r] }

/-! ### Errors and completion (60_exceptions.md R200 to R207)

The CORE has no trap: raising an error saves nothing, changes no mode and redirects nothing (R206), and there is no return from
it (R207). -/

/-- `raise InvalidLength()` and `raise IllegalCommand()`: `STATUS.ERR` takes the code and every other register stays as it stood
before the command began (00_scope.md R17, R201, R202). -/
def raise (e : ErrCode) (s : State) : Result := .next (s.setErr e)

/-- The end of a command that did not raise: `STATUS.ERR <- 0` (40_seed_state.md R90). -/
def complete (s : State) : Result := .next (s.setErr .ok)

/-- `RequireLen(n)`, then the rest of the command: `s` is the state before the command and `done` what the rest makes of it. The
check comes before the command writes anything (40_seed_state.md R94). -/
def requireLen (n : Nat) (s done : State) : Result :=
  match tooShort n s with
  | true => raise .invalidLength s
  | false => complete done

/-- `PutState([w], 8)` (40_seed_state.md R98). -/
def putWord (s : State) (w : Word) : State := s.setRb ⟨w, 0, 0, 0⟩ 8

/-- `PutState([w0, w1, w2, w3], 32)` (40_seed_state.md R98). -/
def putQuad (s : State) (q : Quad) : State := s.setRb q 32

/-! ### The register window (20_memory.md R50 to R56) -/

/-- `off(reg)`, the offset of a register (R52). -/
def regOffset : Reg → Nat
  | .cmd => 0x00
  | .status => 0x08
  | .sblen => 0x10
  | .sb 0 => 0x20
  | .sb 1 => 0x28
  | .sb 2 => 0x30
  | .sb 3 => 0x38
  | .res => 0x40
  | .rblen => 0x48
  | .rb 0 => 0x60
  | .rb 1 => 0x68
  | .rb 2 => 0x70
  | .rb 3 => 0x78

/-- The register at an offset, none for a reserved one (R52, R54). -/
def regAt (off : Nat) : Option Reg :=
  match off with
  | 0x00 => some .cmd
  | 0x08 => some .status
  | 0x10 => some .sblen
  | 0x20 => some (.sb 0)
  | 0x28 => some (.sb 1)
  | 0x30 => some (.sb 2)
  | 0x38 => some (.sb 3)
  | 0x40 => some .res
  | 0x48 => some .rblen
  | 0x60 => some (.rb 0)
  | 0x68 => some (.rb 1)
  | 0x70 => some (.rb 2)
  | 0x78 => some (.rb 3)
  | _ => none

/-- The value of a register as a host reads it (10_state.md R26 to R32): `CMD` reads 0, reserved bits read 0. -/
def readReg (s : State) : Reg → Word
  | .cmd => 0
  | .status => statusWord s.err
  | .sblen => s.sbLen.setWidth 64
  | .sb i => quadWord s.sb i
  | .res => s.res
  | .rblen => s.rbLen.setWidth 64
  | .rb i => quadWord s.rb i

/-- A read of the window: a reserved offset reads 0 (R51, R54). -/
def readWindow (s : State) (off : Nat) : Word :=
  match regAt off with
  | some r => readReg s r
  | none => 0

/-- A write of a register other than `CMD`: `SBLEN` keeps 16 bits, `SB[i]` all, and a read-only register ignores the write
(R54, R56). The write of `CMD` is `runCommand`. -/
def writeReg (s : State) (r : Reg) (v : Word) : State :=
  match r with
  | .cmd => s
  | .status => s
  | .sblen => s.setSbLen (v.extractLsb' 0 16)
  | .sb i => s.setSb i v
  | .res => s
  | .rblen => s
  | .rb _ => s

/-- A write of the window at an offset other than that of `CMD`: a reserved offset ignores it (R54, R56). -/
def writeWindow (s : State) (off : Nat) (v : Word) : State :=
  match regAt off with
  | some r => writeReg s r v
  | none => s

/-- The offset of an access, none where it breaks one of the three conditions of R53. -/
def windowOffset (p : Params) (addr size : Nat) : Option Nat :=
  if size = 8 ∧ p.coreBase ≤ addr ∧ (addr - p.coreBase) % 8 = 0 ∧ addr - p.coreBase ≤ 0xF8 then some (addr - p.coreBase)
  else none

/-! ### Reset and power (70_reset_and_hazards.md R230 to R232; 60_exceptions.md R214) -/

/-- The reset input: every register at its reset value, the engine states at the draw, the hidden registers at any value (R230,
10_state.md R35). -/
def applyReset (draw : Entropy) (hidden : JumpUnit) (s : State) : State :=
  s.setRegs (Regs.afterReset s.params draw hidden)

/-- A power event other than reset: every register unknown (R214; log 13). -/
def applyPower (contents : Regs) (s : State) : State := s.setRegs contents

end Sys2Proof.Machine
end

