-- ==== Sys2Proof/Machine/Bbs.lean ====
section
/-! DEFINITION. The squaring engine, the rejection filter and the Blum Blum Shub commands (44_bbs.md). -/

namespace Sys2Proof.Machine

/-- `(c * c) mod m`, exact, the remainder in `[0, m)` (R182, 00_scope.md R16). -/
def bbsSquare (c : Int) : Int := (c * c) % Config.bbsM

/-- The repeat loop of `BbsNext` with at most the given number of squarings: the value it stops at and how many squarings it ran
(R182). -/
def bbsLoop : Nat → Int → Int × Nat
  | 0, c => (c, 0)
  | n + 1, c =>
    let v := bbsSquare c
    if v = Config.bbsR then
      let rest := bbsLoop n v
      (rest.1, rest.2 + 1)
    else (v, 1)

/-- The value at which `BbsNext` stops. Two squarings are enough from every value (R188; DEDUCED, safe, log 9). -/
def bbsNext (c : Int) : Int := (bbsLoop 2 c).1

/-- The number of squarings `BbsNext` runs (R188, 70_reset_and_hazards.md R243). -/
def bbsSquarings (c : Int) : Nat := (bbsLoop 2 c).2

/-- `BBS.SEED` (R181): no length check, no warm-up, no reduction. -/
def execBbsSeed (s : State) : Result := complete (s.setBbs (seedInt s))

/-- `BBS.SETST` (R183). -/
def execBbsSetst (s : State) : Result := complete (s.setBbs (seedInt s))

/-- `BBS.GETST` (R184): the low 64 bits, two's complement. -/
def execBbsGetst (s : State) : Result := complete (putWord s (BitVec.ofInt 64 s.bbsC.toInt))

/-- `BBS.NEXT` (R185). -/
def execBbsNext (s : State) : Result :=
  let c := bbsNext s.bbsC.toInt
  complete ((s.setBbs c).setRes (BitVec.ofInt 64 c))

end Sys2Proof.Machine
end

