-- ==== Sys2Proof/Machine/Lcg.lean ====
section
/-! DEFINITION. The multiplier-adder and the LCG64 commands (41_lcg64.md). -/

namespace Sys2Proof.Machine

/-- `LcgAdvance(s) = s * MUL + INC`, modulo 2^64 (R110). The constants stand on the left, where they cannot be counted down one by one
when two terms are compared; `lcgAdvance_eq` of the laws is the spec's order. -/
def lcgAdvance (s : Word) : Word := Config.lcgInc + Config.lcgMul * s

/-- `LCG.SEED` (R111). -/
def execLcgSeed (s : State) : Result := requireLen 8 s (s.setLcg (seedWord s 0))

/-- `LCG.SETST` (R112). -/
def execLcgSetst (s : State) : Result := requireLen 8 s (s.setLcg (seedWord s 0))

/-- `LCG.GETST` (R113). -/
def execLcgGetst (s : State) : Result := complete (putWord s s.lcgS)

/-- `LCG.GEN32` (R114). -/
def execLcgGen32 (s : State) : Result :=
  let a := lcgAdvance s.lcgS
  complete ((s.setLcg a).setRes ((halfOf s.params.gen32HalfLcg a).setWidth 64))

/-- `LCG.GEN64` (R115): the output is the new state (R116). -/
def execLcgGen64 (s : State) : Result :=
  let a := lcgAdvance s.lcgS
  complete ((s.setLcg a).setRes a)

end Sys2Proof.Machine
end

