-- ==== Sys2Proof/Machine/Pcg.lean ====
section
/-! DEFINITION. The xorshift-rotate permuter and the PCG-XSH-RR commands (42_pcg.md). -/

namespace Sys2Proof.Machine

/-- `PcgPermute(a)` (R130): the xorshift goes right (decision D29 of the spec). -/
def pcgPermute (a : Word) : BitVec 32 :=
  let count := (a.extractLsb' 59 5).toNat
  let x := a ^^^ (a >>> 18)
  let b := x.extractLsb' 27 32
  rotr32 b count

/-- `PcgNext()` from state `a`: the permutation of the state before the advance, and the advanced state (R136). -/
def pcgNext (a : Word) : BitVec 32 × Word := (pcgPermute a, lcgAdvance a)

/-- `PCG.SEED` (R131): the warm-up output is discarded, `RES` is not written (10_state.md R37). -/
def execPcgSeed (s : State) : Result := requireLen 8 s (s.setPcg (pcgNext (Config.lcgInc + seedWord s 0)).2)

/-- `PCG.SETST` (R132): a direct load. -/
def execPcgSetst (s : State) : Result := requireLen 8 s (s.setPcg (seedWord s 0))

/-- `PCG.GETST` (R133). -/
def execPcgGetst (s : State) : Result := complete (putWord s s.pcgS)

/-- `PCG.GEN32` (R134). -/
def execPcgGen32 (s : State) : Result :=
  let r := pcgNext s.pcgS
  complete ((s.setPcg r.2).setRes (r.1.setWidth 64))

/-- `PCG.GEN64` (R135): two outputs, the first in the high half. -/
def execPcgGen64 (s : State) : Result :=
  let hi := pcgNext s.pcgS
  let lo := pcgNext hi.2
  complete ((s.setPcg lo.2).setRes (hi.1 ++ lo.1))

end Sys2Proof.Machine
end

