-- ==== Sys2Proof/Machine/Xoshiro.lean ====
section
/-! DEFINITION. The Xoshiro256** step, the jump multiplier and the XOS commands (43_xoshiro.md). -/

namespace Sys2Proof.Machine

/-- `XosStep(W)` (R151): the output and the updated array. The statements run in the order written, each on the words as they
stand then (90_conflicts.md C4). -/
def xosStep (w : Quad) : Word × Quad :=
  let r := rotl64 (w.w1 * 5) 7 * 9
  let t := w.w1 <<< 17
  let w := { w with w2 := w.w2 ^^^ w.w0 }
  let w := { w with w3 := w.w3 ^^^ w.w1 }
  let w := { w with w1 := w.w1 ^^^ w.w2 }
  let w := { w with w0 := w.w0 ^^^ w.w3 }
  let w := { w with w2 := w.w2 ^^^ t }
  let w := { w with w3 := rotl64 w.w3 45 }
  (r, w)

/-- One pass of the loop of `XorJump` at bit index `k` (R155). -/
def jumpPass (poly : Quad) (k : Nat) (u : JumpUnit) : JumpUnit where
  xw := (xosStep u.xw).2
  xa := if polyBit poly k then quadXor u.xa u.xw else u.xa
  xj := BitVec.ofNat 9 k

/-- The first `n` passes of the loop, bit index 0 first (R155). -/
def jumpPasses (poly : Quad) : Nat → JumpUnit → JumpUnit
  | 0, u => u
  | n + 1, u => jumpPass poly n (jumpPasses poly n u)

/-- `XorJump(POLY, S)` on the hidden registers: exactly 256 passes, then `XJ <- 256`. The jumped state is `XA` (R155).
These are the values at the end of the procedure; that they stay at rest is a choice (log 23). -/
def xorJump (poly start : Quad) (xj : BitVec 9) : JumpUnit :=
  let u := jumpPasses poly 256 ⟨start, Quad.zero, xj⟩
  ⟨u.xw, u.xa, 256⟩

/-- `XOS.SEED` (R150). -/
def execXosSeed (s : State) : Result := requireLen 32 s (s.setXs (seedQuad s))

/-- `XOS.SETST` (R152). -/
def execXosSetst (s : State) : Result := requireLen 32 s (s.setXs (seedQuad s))

/-- `XOS.GETST` (R153). -/
def execXosGetst (s : State) : Result := complete (putQuad s s.xs)

/-- `XOS.GEN32` (R154). -/
def execXosGen32 (s : State) : Result :=
  let r := xosStep s.xs
  complete ((s.setXs r.2).setRes ((halfOf s.params.gen32HalfXos r.1).setWidth 64))

/-- `XOS.GEN64` (R156). -/
def execXosGen64 (s : State) : Result :=
  let r := xosStep s.xs
  complete ((s.setXs r.2).setRes r.1)

/-- `XOS.JUMP` (R157). DESIGN CHOICE (unsafe, log 23): the hidden registers, unspecified at rest (10_state.md R35), keep what the loop left
in them. -/
def execXosJump (s : State) : Result :=
  let u := xorJump s.params.jumpPoly s.xs s.xj
  complete ((s.setJumpUnit u).setXs u.xa)

/-- `XOS.LJUMP` (R159). DESIGN CHOICE (unsafe, log 23): the hidden registers, unspecified at rest (10_state.md R35), keep what the loop left
in them. -/
def execXosLjump (s : State) : Result :=
  let u := xorJump s.params.longJumpPoly s.xs s.xj
  complete ((s.setJumpUnit u).setXs u.xa)

/-- `XOS.SPLIT` (R158): the child goes to the result buffer, the parent stays. DESIGN CHOICE (unsafe, log 23): the hidden registers, unspecified
at rest (10_state.md R35), keep what the loop left in them. -/
def execXosSplit (s : State) : Result :=
  let u := xorJump s.params.jumpPoly s.xs s.xj
  complete (putQuad (s.setJumpUnit u) u.xa)

end Sys2Proof.Machine
end

