-- ==== Sys2Proof/Machine/Dispatch.lean ====
section
/-! DEFINITION. The dispatch of a legal command to its rule (40_seed_state.md R90), one arm for each constructor. -/

namespace Sys2Proof.Machine

def exec (i : Instr) (s : State) : Host.Outcome State Fault Refusal :=
  match i with
  | .lcgSeed => Sys2Proof.Machine.execLcgSeed s
  | .lcgSetst => Sys2Proof.Machine.execLcgSetst s
  | .lcgGetst => Sys2Proof.Machine.execLcgGetst s
  | .lcgGen32 => Sys2Proof.Machine.execLcgGen32 s
  | .lcgGen64 => Sys2Proof.Machine.execLcgGen64 s
  | .pcgSeed => Sys2Proof.Machine.execPcgSeed s
  | .pcgSetst => Sys2Proof.Machine.execPcgSetst s
  | .pcgGetst => Sys2Proof.Machine.execPcgGetst s
  | .pcgGen32 => Sys2Proof.Machine.execPcgGen32 s
  | .pcgGen64 => Sys2Proof.Machine.execPcgGen64 s
  | .xosSeed => Sys2Proof.Machine.execXosSeed s
  | .xosSetst => Sys2Proof.Machine.execXosSetst s
  | .xosGetst => Sys2Proof.Machine.execXosGetst s
  | .xosGen32 => Sys2Proof.Machine.execXosGen32 s
  | .xosGen64 => Sys2Proof.Machine.execXosGen64 s
  | .xosJump => Sys2Proof.Machine.execXosJump s
  | .xosLjump => Sys2Proof.Machine.execXosLjump s
  | .xosSplit => Sys2Proof.Machine.execXosSplit s
  | .bbsSeed => Sys2Proof.Machine.execBbsSeed s
  | .bbsSetst => Sys2Proof.Machine.execBbsSetst s
  | .bbsGetst => Sys2Proof.Machine.execBbsGetst s
  | .bbsNext => Sys2Proof.Machine.execBbsNext s

end Sys2Proof.Machine
end

