-- ==== Sys2Proof/Machine/Sequencer.lean ====
section
/-! DEFINITION. What the CORE does with one input: the command sequencer (40_seed_state.md R90) behind the register window
(20_memory.md R51, R56), the reset input and a power event. -/

namespace Sys2Proof.Machine

/-- A write of the value `v` to `CMD` (40_seed_state.md R90): an illegal word sets `STATUS.ERR <- 2` and nothing else, a legal one
runs its command to its end (R91). -/
def runCommand (v : Word) (s : State) : Result :=
  match decode v with
  | .error _ => raise .illegalCommand s
  | .ok i => exec i s

/-- A well-formed write of the window: at offset 0 it runs a command, elsewhere it stores or is ignored (20_memory.md R56). -/
def writeAccess (off : Nat) (v : Word) (s : State) : Result :=
  match regAt off with
  | some .cmd => runCommand v s
  | _ => .next (writeWindow s off v)

/-- A well-formed read of the window: it changes no register (20_memory.md R55), and it stops where it finds the reserved code of
`STATUS.ERR` (93_implementation_defined.md U5; log 11). -/
def readAccess (off : Nat) (s : State) : Result :=
  if regAt off = some .status ∧ s.err = .reserved then .fault .reservedStatus
  else .next (s.respond (.data (readWindow s off)))

/-- One host access. The bus error comes before any other check (60_exceptions.md R205). -/
def performAccess (a : Access) (s : State) : Result :=
  match windowOffset s.params a.addr a.size with
  | none => .fault .busError
  | some off =>
    match a with
    | .read _ _ => readAccess off s
    | .write _ _ v => writeAccess off v (s.respond .done)

/-- One input. A command abandoned by a reset leaves nothing behind: the CORE is in the reset state, and the host step of its `CMD`
write is a fault (70_reset_and_hazards.md R232, 93_implementation_defined.md U15; log 12).
DESIGN CHOICE (unsafe, log 24): a power event comes between two inputs only, since the spec is silent on one during a command. -/
def perform (e : Input) (s : State) : Result :=
  match e with
  | .access a => performAccess a s
  | .reset draw hidden => .next (applyReset draw hidden s)
  | .resetDuring _ draw hidden => .fault (.abandonedWrite (applyReset draw hidden s))
  | .power contents => .next (applyPower contents s)

/-- The input that writes the word `v` to `CMD`. -/
def cmdWrite (p : Params) (v : Word) : Input := .access (.write (p.coreBase + regOffset .cmd) 8 v)

end Sys2Proof.Machine
end

