-- ==== Sys2Proof/Machine/Step.lean ====
section
/-! DEFINITION. One step: the oldest pending input is taken and performed to its end (20_memory.md R60, 40_seed_state.md R91). -/

namespace Sys2Proof.Machine

/-- One step. With nothing pending the CORE does nothing and holds its state (60_exceptions.md R214). -/
def step (s : State) : Host.Outcome State Fault Refusal :=
  match s.pending with
  | [] => .next s
  | e :: rest => perform e (s.setPending rest)

/-- The state with the command word `w` written to `CMD` as the very next input. The CORE fetches nothing (20_memory.md R64): a
command reaches it by that host write and in no other way (10_state.md R40; log 5). -/
def State.withFetchWord (s : State) (nbits w : Nat) : State :=
  s.setPending (cmdWrite s.params (BitVec.ofNat 64 (w % 2 ^ nbits)) :: s.pending)

end Sys2Proof.Machine
end

