-- ==== Sys2Proof/Machine/HostProgram.lean ====
section
/-! DEFINITION. The host-program notation (30_encoding.md R78 to R80): each statement as the bus transactions it names, and the
mnemonics of the commands. It is no instruction set of the CORE. -/

namespace Sys2Proof.Machine

/-- `WR reg, imm64`: `MemWrite(CORE_BASE + off(reg), 8, imm64)` (R78). -/
def wrAccess (p : Params) (r : Reg) (v : Word) : Access := .write (p.coreBase + regOffset r) 8 v

/-- `RD reg`: `MemRead(CORE_BASE + off(reg), 8)` (R78). -/
def rdAccess (p : Params) (r : Reg) : Access := .read (p.coreBase + regOffset r) 8

/-- `SEEDW n, w0, w1, w2, w3` (R79). -/
def seedw4Accesses (p : Params) (n w0 w1 w2 w3 : Word) : List Access :=
  [wrAccess p (.sb 0) w0, wrAccess p (.sb 1) w1, wrAccess p (.sb 2) w2, wrAccess p (.sb 3) w3, wrAccess p .sblen n]

/-- One word of `SEEDB`: written only where the sequence has bytes for it (R79). -/
def seedbWord (p : Params) (bytes : List Byte) (i : Fin 4) : List Access :=
  if 8 * i.val < bytes.length then [wrAccess p (.sb i) (packWord bytes i.val)] else []

/-- The expansion of a statement into bus transactions (R78, R79). `got` is what the statement's own reads return: only `COPYSTATE`
writes values it has read (log 19). -/
def expandStmt (p : Params) (got : Reg → Word) : HostStmt → List Access
  | .wr r v => [wrAccess p r v]
  | .rd r => [rdAccess p r]
  | .cmd i => [wrAccess p .cmd (encode i)]
  | .seedw1 n w0 => [wrAccess p (.sb 0) w0, wrAccess p .sblen n]
  | .seedw4 n w0 w1 w2 w3 => seedw4Accesses p n w0 w1 w2 w3
  | .seedb bytes =>
    seedbWord p bytes 0 ++ seedbWord p bytes 1 ++ seedbWord p bytes 2 ++ seedbWord p bytes 3 ++
      [wrAccess p .sblen (BitVec.ofNat 64 (min bytes.length 65535))]
  | .check => [rdAccess p .status]
  | .copystate =>
    [rdAccess p .rblen, rdAccess p (.rb 0), rdAccess p (.rb 1), rdAccess p (.rb 2), rdAccess p (.rb 3)] ++
      seedw4Accesses p (got .rblen) (got (.rb 0)) (got (.rb 1)) (got (.rb 2)) (got (.rb 3))

/-- What `CHECK` expects of the value its read returns: `ERR = 0` (R79). -/
def checkHolds (status : Word) : Bool := status.extractLsb' 0 2 == 0

/-- The engine names of R80. -/
def engineName : Engine → String
  | .lcg => "LCG"
  | .pcg => "PCG"
  | .xos => "XOS"
  | .bbs => "BBS"

/-- The function names of R73: function code 5 is `NEXT` on BBS and `GEN64` elsewhere. -/
def fnName (e : Engine) : Fn → String
  | .seed => "SEED"
  | .setst => "SETST"
  | .getst => "GETST"
  | .gen32 => "GEN32"
  | .gen64 => if e = .bbs then "NEXT" else "GEN64"
  | .jump => "JUMP"
  | .ljump => "LJUMP"
  | .split => "SPLIT"

/-- The mnemonic of a command, in upper case (R80). -/
def mnemonic (i : Instr) : String := engineName i.cell.engine ++ "." ++ fnName i.cell.engine i.cell.fn

/-- All 22 commands, in the order of the opcode table (R74). -/
def allInstrs : List Instr :=
  [.lcgSeed, .lcgSetst, .lcgGetst, .lcgGen32, .lcgGen64, .pcgSeed, .pcgSetst, .pcgGetst, .pcgGen32, .pcgGen64,
   .xosSeed, .xosSetst, .xosGetst, .xosGen32, .xosGen64, .xosJump, .xosLjump, .xosSplit,
   .bbsSeed, .bbsSetst, .bbsGetst, .bbsNext]

/-- The command of a mnemonic, in any mixture of cases (R80). -/
def ofMnemonic (text : String) : Option Instr :=
  allInstrs.find? fun i => (mnemonic i).toList == text.toList.map Char.toUpper

end Sys2Proof.Machine
end

