-- ==== Sys2Proof/Machine/System.lean ====
section
/-! DEFINITION. Several CORE instances (60_exceptions.md R212): each has its own window, state and sequencer, and they share
nothing (log 15). -/

namespace Sys2Proof.Machine

/-- A step of instance `k` of several. An index with no instance leaves all of them alone. DESIGN CHOICE (safe, log 15): a fault of
one instance's host step ends the run of the whole list, the other instances standing as they did before the step. The spec leaves
the host's reaction to a bus error open (decision D35). -/
def stepInstance (k : Nat) (sys : List State) : Host.Outcome (List State) Fault Refusal :=
  match sys[k]? with
  | none => .next sys
  | some s =>
    match step s with
    | .next s' => .next (sys.set k s')
    | .fault r => .fault r
    | .refused r => .refused r

end Sys2Proof.Machine
end

