-- ==== Sys2Proof/Machine/Timing.lean ====
section
/-! DEFINITION. The engine steps of a command (70_reset_and_hazards.md R243). They are a count only: the model keeps no time, and
the cycle counts `Config.cycles` are open (log 18). -/

namespace Sys2Proof.Machine

/-- The engine steps a command runs from a state (R243): LCG advances, Xoshiro steps or modular squarings. A seed or set command
that fails its length check runs none. -/
def engineSteps (i : Instr) (s : State) : Nat :=
  match i with
  | .lcgSeed => 0
  | .lcgSetst => 0
  | .lcgGetst => 0
  | .lcgGen32 => 1
  | .lcgGen64 => 1
  | .pcgSeed => if tooShort 8 s then 0 else 1
  | .pcgSetst => 0
  | .pcgGetst => 0
  | .pcgGen32 => 1
  | .pcgGen64 => 2
  | .xosSeed => 0
  | .xosSetst => 0
  | .xosGetst => 0
  | .xosGen32 => 1
  | .xosGen64 => 1
  | .xosJump => 256
  | .xosLjump => 256
  | .xosSplit => 256
  | .bbsSeed => 0
  | .bbsSetst => 0
  | .bbsGetst => 0
  | .bbsNext => bbsSquarings s.bbsC.toInt

end Sys2Proof.Machine
end

