-- ==== Sys2Proof/Safety.lean ====
section
/-! DEFINITION. What claims call a state at rest and a safe run: the invariant every step keeps, the accesses that cause no bus
error, and the relation of states that differ only in what no host can observe. -/

namespace Sys2Proof.Machine

/-- `BBS_C` at rest (44_bbs.md R186): in `[0, 2^64)`, or in `[-2^63, 2^64)` when `BBS_SEED_SIGNED`. -/
abbrev BbsAtRest (p : Params) (c : BitVec 66) : Prop :=
  (if p.bbsSeedSigned then -(2 ^ 63) else 0) ≤ c.toInt ∧ c.toInt < Config.bbsR

/-- `RBLEN.LEN` is 0, 8 or 32, and the words of `RB` beyond it are 0 (10_state.md R31, R32). -/
abbrev ResultShape (n : BitVec 6) (q : Quad) : Prop :=
  n = 32 ∨ (n = 8 ∧ q.w1 = 0 ∧ q.w2 = 0 ∧ q.w3 = 0) ∨ (n = 0 ∧ q = Quad.zero)

/-- The input is no power event other than reset, after which the spec knows no register (60_exceptions.md R214). -/
def Input.keepsPower : Input → Bool
  | .access _ => true
  | .reset _ _ => true
  | .resetDuring _ _ _ => true
  | .power _ => false

/-- The invariant of a powered machine at rest. Code 3 of `STATUS.ERR` is never written (60_exceptions.md R200). -/
abbrev Inv (s : State) : Prop :=
  s.params.wf = true ∧ BbsAtRest s.params s.bbsC ∧ ResultShape s.rbLen s.rb ∧ s.err ≠ .reserved ∧
    ∀ e ∈ s.pending, e.keepsPower = true

/-- The input stops no step: it is no ill-formed access (20_memory.md R53), no reset that abandons a command
(93_implementation_defined.md U15), and no power event that leaves the reserved code of `STATUS.ERR` (U5). -/
def Input.wf (p : Params) : Input → Bool
  | .access a => a.wf p
  | .reset _ _ => true
  | .resetDuring _ _ _ => false
  | .power contents => contents.err != .reserved

/-- A safe state: nothing in it and nothing that is pending stops a step. -/
abbrev Safe (s : State) : Prop := s.err ≠ .reserved ∧ ∀ e ∈ s.pending, e.wf s.params = true

/-- The states equal but for the hidden registers of the jump unit, which no host can observe (10_state.md R35). -/
abbrev SameButHidden (s t : State) : Prop := t = s.setJumpUnit ⟨t.xw, t.xa, t.xj⟩

/-- The four engine states of two machines agree (10_state.md section 1). -/
abbrev SameEngines (s t : State) : Prop := t.lcgS = s.lcgS ∧ t.pcgS = s.pcgS ∧ t.xs = s.xs ∧ t.bbsC = s.bbsC

/-- The seed buffer and its length agree (10_state.md R28, R29). -/
abbrev SameSeedBuffer (s t : State) : Prop := t.sbLen = s.sbLen ∧ t.sb = s.sb

/-- The result registers agree (10_state.md R30 to R32). -/
abbrev SameResults (s t : State) : Prop := t.res = s.res ∧ t.rbLen = s.rbLen ∧ t.rb = s.rb

/-- The hidden registers agree (10_state.md R35). -/
abbrev SameHidden (s t : State) : Prop := t.xw = s.xw ∧ t.xa = s.xa ∧ t.xj = s.xj

/-- The model's own fields agree: parameters, pending inputs, answers. -/
abbrev SameOutside (s t : State) : Prop := t.params = s.params ∧ t.pending = s.pending ∧ t.responses = s.responses

/-- The minimum input length of a command in bytes, 0 where it takes no byte sequence (40_seed_state.md R93, R97). Claims use it; the
meanings give their own lengths. -/
def minLen : Instr → Nat
  | .lcgSeed | .lcgSetst | .pcgSeed | .pcgSetst => 8
  | .xosSeed | .xosSetst => 32
  | .lcgGetst | .lcgGen32 | .lcgGen64 | .pcgGetst | .pcgGen32 | .pcgGen64 => 0
  | .xosGetst | .xosGen32 | .xosGen64 | .xosJump | .xosLjump | .xosSplit => 0
  | .bbsSeed | .bbsSetst | .bbsGetst | .bbsNext => 0

/-- Commands one after another, stopping at the first that does not answer a next state. -/
def runCommands : List Instr → State → Result
  | [], s => .next s
  | i :: rest, s =>
    match exec i s with
    | .next t => runCommands rest t
    | .fault r => .fault r
    | .refused r => .refused r

/-- Inputs performed one after another, stopping at the first fault: what receive order means (20_memory.md R60). -/
def performAll : List Input → State → Result
  | [], s => .next s
  | e :: rest, s =>
    match perform e s with
    | .next t => performAll rest t
    | .fault r => .fault r
    | .refused r => .refused r

/-- The array after `n` Xoshiro steps (43_xoshiro.md R151): `T^n`. -/
def xosPower (n : Nat) (q : Quad) : Quad := (fun w => (xosStep w).2)^[n] q

/-- The 256 coefficients of a jump polynomial as one number, coefficient `k` at bit `k` (00_scope.md R13). -/
def polyNat (p : Quad) : Nat := p.w0.toNat + 2 ^ 64 * p.w1.toNat + 2 ^ 128 * p.w2.toNat + 2 ^ 192 * p.w3.toNat

/-- `POLY(T)` applied to an array: the exclusive or of `T^k` of it over the coefficients `k` that are 1 (43_xoshiro.md R155). -/
def polyEval (p q : Quad) : Quad :=
  (List.range 256).foldl (fun acc k => if (polyNat p).testBit k then quadXor acc (xosPower k q) else acc) Quad.zero

end Sys2Proof.Machine
end

