-- ==== Sys2Proof/Certificates/Slice0/Obligations.lean ====
section
/-! DEFINITION. The statements for the provers. A next state written as a record update of the state before says the frame as well:
every register, parameter, pending input and answer not named in it is unchanged. The CORE has no byte memory (20_memory.md
R50), so there is no frame over addresses: its whole address space is the register window, a function of the registers. -/

open Sys2Proof Sys2Proof.Machine

/-! ### Encoding -/

/-- 30_encoding.md section 2: each of the 22 command words decodes to its command. -/
def Obligations.DecodesEveryOpcodeOfTheTable : Prop :=
  decode 0x0000000000000001 = .ok .lcgSeed ∧ decode 0x0000000000000002 = .ok .lcgSetst ∧
  decode 0x0000000000000003 = .ok .lcgGetst ∧ decode 0x0000000000000004 = .ok .lcgGen32 ∧
  decode 0x0000000000000005 = .ok .lcgGen64 ∧ decode 0x0000000000000011 = .ok .pcgSeed ∧
  decode 0x0000000000000012 = .ok .pcgSetst ∧ decode 0x0000000000000013 = .ok .pcgGetst ∧
  decode 0x0000000000000014 = .ok .pcgGen32 ∧ decode 0x0000000000000015 = .ok .pcgGen64 ∧
  decode 0x0000000000000021 = .ok .xosSeed ∧ decode 0x0000000000000022 = .ok .xosSetst ∧
  decode 0x0000000000000023 = .ok .xosGetst ∧ decode 0x0000000000000024 = .ok .xosGen32 ∧
  decode 0x0000000000000025 = .ok .xosGen64 ∧ decode 0x0000000000000026 = .ok .xosJump ∧
  decode 0x0000000000000027 = .ok .xosLjump ∧ decode 0x0000000000000028 = .ok .xosSplit ∧
  decode 0x0000000000000031 = .ok .bbsSeed ∧ decode 0x0000000000000032 = .ok .bbsSetst ∧
  decode 0x0000000000000033 = .ok .bbsGetst ∧ decode 0x0000000000000035 = .ok .bbsNext

/-- Decode and encode agree, both ways: a word decodes to a command exactly where it is the command's one word (every bit is
fixed, 30_encoding.md section 2). -/
def Obligations.DecodeAgreesWithEncode : Prop :=
  ∀ (v : Word) (i : Instr), decode v = .ok i ↔ v = encode i

/-- 30_encoding.md R76 and 60_exceptions.md R201: a word is a legal command exactly where `v[63:8] = 0` and `v[7:0]` is one of the 22
opcodes; any other word written to `CMD` sets `STATUS.ERR` to 2 and changes nothing else. -/
def Obligations.IllegalWordSetsErrTwoAndNothingElse : Prop :=
  ∀ v : Word,
    ((∃ i, decode v = .ok i) ↔
      v.toNat / 256 = 0 ∧ v.toNat % 256 ∈
        [0x01, 0x02, 0x03, 0x04, 0x05, 0x11, 0x12, 0x13, 0x14, 0x15, 0x21, 0x22, 0x23, 0x24, 0x25, 0x26, 0x27, 0x28,
         0x31, 0x32, 0x33, 0x35]) ∧
    ∀ (s : State) (rest : List Input), s.pending = .access (.write s.params.coreBase 8 v) :: rest →
      (∀ i, decode v ≠ .ok i) →
        step s = .next { s with pending := rest, responses := s.responses ++ [.done], err := .illegalCommand }

/-! ### The step and the register window -/

/-- A well-formed write of a command word to `CMD` (offset 0 of the window) runs the command it decodes to, after the bus has taken
the access; so does the step after `withFetchWord`. -/
def Obligations.StepRunsTheDecodedCommand : Prop :=
  (∀ (s : State) (v : Word) (i : Instr) (rest : List Input),
    s.pending = .access (.write s.params.coreBase 8 v) :: rest → decode v = .ok i →
      step s = exec i { s with pending := rest, responses := s.responses ++ [.done] }) ∧
  ∀ (s : State) (nbits w : Nat) (i : Instr), decodeTableWord nbits w = some i →
    step (s.withFetchWord nbits w) = exec i { s with responses := s.responses ++ [.done] }

/-- 20_memory.md section 1: a step is a bus error exactly where the next input is an access that breaks one of the three conditions. A step
stops for two more reasons only: a reset that abandons a command, and a read of `STATUS` at the reserved code 3
(93_implementation_defined.md Part 1), which is the model's reading of that table (log 11, log 12). -/
def Obligations.BusErrorExactlyOnIllFormedAccess : Prop :=
  ∀ s : State,
    (step s = .fault .busError ↔
      ∃ (a : Access) (rest : List Input), s.pending = .access a :: rest ∧
        ¬ (a.size = 8 ∧ s.params.coreBase ≤ a.addr ∧ (a.addr - s.params.coreBase) % 8 = 0 ∧
            a.addr - s.params.coreBase ≤ 0xF8)) ∧
    (∀ f, step s = .fault f → f = .busError ∨
      (∃ v draw hidden rest t, s.pending = .resetDuring v draw hidden :: rest ∧ f = .abandonedWrite t) ∨
      (f = .reservedStatus ∧ s.err = .reserved ∧ ∃ rest, s.pending = .access (.read (s.params.coreBase + 0x08) 8) :: rest)) ∧
    ∀ r, step s ≠ .refused r

/-- 60_exceptions.md R205: a malformed access is a bus error and decodes nothing; then an illegal word gives `ERR = 2`
whatever the length; then a short input gives `ERR = 1`; a command that passes all three completes with `ERR = 0`. -/
def Obligations.ErrorsAreCheckedInOrder : Prop :=
  ∀ (s : State) (a : Access) (rest : List Input), s.pending = .access a :: rest →
    (a.wf s.params = false → step s = .fault .busError) ∧
    ∀ v : Word, a = .write s.params.coreBase 8 v →
      (∀ why, decode v = .error why → ∃ t, step s = .next t ∧ t.err = .illegalCommand) ∧
      (∀ i, decode v = .ok i → s.sbLen.toNat < minLen i → ∃ t, step s = .next t ∧ t.err = .invalidLength) ∧
      ∀ i, decode v = .ok i → minLen i ≤ s.sbLen.toNat → ∃ t, step s = .next t ∧ t.err = .ok

/-- 20_memory.md section 1: a read of the window at any of its 32 offsets answers the register of the map, reserved offsets, reserved
fields and `CMD` as 0, and changes no register. Where `STATUS` stands at the reserved code 3, which no command and no reset writes,
reading it is a fault: this clause is the model's reading of 93_implementation_defined.md Part 1, U5 (log 11). -/
def Obligations.ReadAnswersTheRegisterAndChangesNone : Prop :=
  ∀ (s : State) (off : Nat) (rest : List Input), off % 8 = 0 → off ≤ 0xF8 →
    s.pending = .access (.read (s.params.coreBase + off) 8) :: rest →
      (off = 0x08 ∧ s.err = .reserved → step s = .fault .reservedStatus) ∧
      (off ≠ 0x08 ∨ s.err ≠ .reserved → step s = .next { s with
        pending := rest
        responses := s.responses ++ [.data (
          if off = 0x08 then (if s.err = .ok then 0 else if s.err = .invalidLength then 1 else 2)
          else if off = 0x10 then BitVec.ofNat 64 s.sbLen.toNat
          else if off = 0x20 then s.sb.w0
          else if off = 0x28 then s.sb.w1
          else if off = 0x30 then s.sb.w2
          else if off = 0x38 then s.sb.w3
          else if off = 0x40 then s.res
          else if off = 0x48 then BitVec.ofNat 64 s.rbLen.toNat
          else if off = 0x60 then s.rb.w0
          else if off = 0x68 then s.rb.w1
          else if off = 0x70 then s.rb.w2
          else if off = 0x78 then s.rb.w3
          else 0)] })

/-- 20_memory.md section 1, away from `CMD`: a write stores in `SBLEN` (its low 16 bits) or in one word of `SB`, and at every other
offset, reserved or read-only, it changes no register. -/
def Obligations.WriteStoresOnlyInTheSeedBuffer : Prop :=
  ∀ (s : State) (off : Nat) (v : Word) (rest : List Input), off % 8 = 0 → off ≤ 0xF8 → off ≠ 0 →
    s.pending = .access (.write (s.params.coreBase + off) 8 v) :: rest →
      step s = .next { s with
        pending := rest
        responses := s.responses ++ [.done]
        sbLen := if off = 0x10 then BitVec.ofNat 16 v.toNat else s.sbLen
        sb := ⟨if off = 0x20 then v else s.sb.w0, if off = 0x28 then v else s.sb.w1,
               if off = 0x30 then v else s.sb.w2, if off = 0x38 then v else s.sb.w3⟩ }

/-- 10_state.md R24: no read of the window depends on an engine state, and no access but a write of `CMD` changes one. -/
def Obligations.EngineStateIsPrivate : Prop :=
  (∀ (s : State) (l p : Word) (x : Quad) (b : BitVec 66) (off : Nat),
    readWindow { s with lcgS := l, pcgS := p, xs := x, bbsC := b } off = readWindow s off) ∧
  ∀ (s t : State) (a : Access) (rest : List Input), s.pending = .access a :: rest →
    (∀ v, a ≠ .write s.params.coreBase 8 v) → step s = .next t → SameEngines s t

/-- With no input pending the CORE holds its state (60_exceptions.md section 5). -/
def Obligations.IdleStepHoldsTheState : Prop :=
  ∀ s : State, s.pending = [] → step s = .next s

/-- 20_memory.md section 4: from a state in which nothing pending stops a step, the run of as many steps as inputs ends in
the state that performing the inputs one at a time in receive order gives, with nothing pending. -/
def Obligations.SafeRunPerformsInputsInReceiveOrder : Prop :=
  ∀ s : State, Safe s → ∃ t, Sys2Proof.core.run s.pending.length s = .next t ∧ t.pending = [] ∧
    performAll s.pending { s with pending := [] } = .next t

/-! ### Reset and power -/

/-- 70_reset_and_hazards.md R230: the reset input sets every register to its reset value, whatever the state was. The values the
hidden registers take are the input's own. -/
def Obligations.ResetInputSetsEveryRegister : Prop :=
  ∀ (s : State) (draw : Entropy) (hidden : JumpUnit) (rest : List Input), s.pending = .reset draw hidden :: rest →
    step s = .next {
      lcgS := draw.lcg
      pcgS := draw.pcg
      xs := draw.xos
      bbsC := BitVec.ofInt 66 (if s.params.bbsSeedSigned then draw.bbs.toInt else (draw.bbs.toNat : Int))
      err := .ok
      sbLen := 0
      sb := ⟨0, 0, 0, 0⟩
      res := 0
      rbLen := 0
      rb := ⟨0, 0, 0, 0⟩
      xw := hidden.xw
      xa := hidden.xa
      xj := hidden.xj
      params := s.params
      pending := rest
      responses := s.responses }

/-- 70_reset_and_hazards.md section 1 and 93_implementation_defined.md U15: a reset that arrives during a command makes the host step of
the `CMD` write a fault, and the CORE is then in exactly the state the reset alone would leave. That the fault carries this state is
the model's own form (log 12). -/
def Obligations.ResetDuringACommandLeavesNoPartOfIt : Prop :=
  ∀ (s : State) (v : Word) (draw : Entropy) (hidden : JumpUnit) (rest : List Input),
    s.pending = .resetDuring v draw hidden :: rest →
      ∃ t, step s = .fault (.abandonedWrite t) ∧ step { s with pending := .reset draw hidden :: rest } = .next t

/-- 60_exceptions.md section 5: a power event other than reset leaves registers of any value, and a reset makes them known again (the
invariant of this model's `Inv`, log 13). -/
def Obligations.ResetAfterAPowerEventRestoresTheInvariant : Prop :=
  ∀ (s : State) (contents : Regs) (draw : Entropy) (hidden : JumpUnit) (rest : List Input), s.params.wf = true →
    (∀ e ∈ rest, e.keepsPower = true) → s.pending = .power contents :: .reset draw hidden :: rest →
      ∃ t u, step s = .next t ∧ t.toRegs = contents ∧ step t = .next u ∧ Inv u

/-- The invariant holds right after reset, for every draw and for the model's own reset state (its parameters' defaults are R14's, its
`CORE_BASE` is log 2's and its draw is the free value of log 3). -/
def Obligations.InvariantHoldsAtReset : Prop :=
  (∀ (p : Params) (draw : Entropy), p.wf = true → Inv (State.resetWith p draw)) ∧ Inv State.reset

/-- Every step keeps the invariant (44_bbs.md section 3; 10_state.md section 2), and no step changes a parameter. -/
def Obligations.EveryStepKeepsTheInvariant : Prop :=
  ∀ s t : State, Inv s → step s = .next t → Inv t ∧ t.params = s.params

/-! ### What every command does -/

/-- 40_seed_state.md R94, 60_exceptions.md R202 and R203: a seed or set command whose input is shorter than its minimum sets
`STATUS.ERR` to 1 and changes nothing else; every other legal command completes with `ERR = 0`. -/
def Obligations.ShortInputIsTheOnlyErrorOfALegalCommand : Prop :=
  ∀ (i : Instr) (s : State),
    (s.sbLen.toNat < minLen i → exec i s = .next { s with err := .invalidLength }) ∧
    (minLen i ≤ s.sbLen.toNat → ∃ t, exec i s = .next t ∧ t.err = .ok)

/-- 40_seed_state.md section 1, the table of what commands write: no command writes the seed buffer, its length or anything outside the CORE, and each
register is written only by the commands of its row. -/
def Obligations.CommandsWriteOnlyTheirRow : Prop :=
  ∀ (i : Instr) (s : State), ∃ t, exec i s = .next t ∧ SameSeedBuffer s t ∧ SameOutside s t ∧
    (i ∉ [.lcgSeed, .lcgSetst, .lcgGen32, .lcgGen64] → t.lcgS = s.lcgS) ∧
    (i ∉ [.pcgSeed, .pcgSetst, .pcgGen32, .pcgGen64] → t.pcgS = s.pcgS) ∧
    (i ∉ [.xosSeed, .xosSetst, .xosGen32, .xosGen64, .xosJump, .xosLjump] → t.xs = s.xs) ∧
    (i ∉ [.bbsSeed, .bbsSetst, .bbsNext] → t.bbsC = s.bbsC) ∧
    (i ∉ [.lcgGen32, .lcgGen64, .pcgGen32, .pcgGen64, .xosGen32, .xosGen64, .bbsNext] → t.res = s.res) ∧
    (i ∉ [.lcgGetst, .pcgGetst, .xosGetst, .bbsGetst, .xosSplit] → t.rb = s.rb ∧ t.rbLen = s.rbLen) ∧
    (i ∉ [.xosJump, .xosLjump, .xosSplit] → SameHidden s t)

/-- 40_seed_state.md section 4: two machines with the same parameters, engine states, seed buffer and result registers stay so through
every sequence of commands. -/
def Obligations.SameEnginesGiveTheSameResults : Prop :=
  ∀ (cmds : List Instr) (s t : State), t.params = s.params → SameEngines s t → SameSeedBuffer s t → SameResults s t →
    ∃ s' t', runCommands cmds s = .next s' ∧ runCommands cmds t = .next t' ∧ SameEngines s' t' ∧ SameSeedBuffer s' t' ∧
      SameResults s' t'

/-- 10_state.md section 4: the hidden registers of the jump unit reach nothing: two states that differ only in them step to states that
differ only in them, and stop alike. -/
def Obligations.HiddenRegistersAreNotObservable : Prop :=
  ∀ (s : State) (u : JumpUnit),
    (∀ t, step s = .next t → ∃ u', step (s.setJumpUnit u) = .next (t.setJumpUnit u')) ∧
    ∀ f, step s = .fault f → step (s.setJumpUnit u) = .fault f

/-- 40_seed_state.md section 4: `SEED` and `SETST` have the same effect on LCG64, Xoshiro256** and Blum Blum Shub, and differ on PCG. -/
def Obligations.SeedEqualsSetstExceptOnPcg : Prop :=
  (∀ s : State, exec .lcgSeed s = exec .lcgSetst s ∧ exec .xosSeed s = exec .xosSetst s ∧
    exec .bbsSeed s = exec .bbsSetst s) ∧
  ∀ s : State, 8 ≤ s.sbLen.toNat → ∃ t u, exec .pcgSeed s = .next t ∧ exec .pcgSetst s = .next u ∧
    t.pcgS = 1442695040888963407#64 + 6364136223846793005#64 * (1442695040888963407#64 + s.sb.w0) ∧ u.pcgS = s.sb.w0

/-- 40_seed_state.md section 4: for LCG64, PCG and Xoshiro, `GETST`, the copy of the result buffer into the seed buffer, and `SETST`
restore the engine state; and `SETST` of exactly the minimum length followed by `GETST` returns the bytes supplied. -/
def Obligations.StateRoundTrip : Prop :=
  ∀ s : State,
    (∃ t u, exec .lcgGetst s = .next t ∧ exec .lcgSetst { t with sb := t.rb, sbLen := t.rbLen.setWidth 16 } = .next u ∧
      u.err = .ok ∧ u.lcgS = s.lcgS) ∧
    (∃ t u, exec .pcgGetst s = .next t ∧ exec .pcgSetst { t with sb := t.rb, sbLen := t.rbLen.setWidth 16 } = .next u ∧
      u.err = .ok ∧ u.pcgS = s.pcgS) ∧
    (∃ t u, exec .xosGetst s = .next t ∧ exec .xosSetst { t with sb := t.rb, sbLen := t.rbLen.setWidth 16 } = .next u ∧
      u.err = .ok ∧ u.xs = s.xs) ∧
    (s.sbLen = 8 → ∃ t u, exec .lcgSetst s = .next t ∧ exec .lcgGetst t = .next u ∧
      resultBytes u = (List.range 8).map (seedByte s)) ∧
    (s.sbLen = 8 → ∃ t u, exec .pcgSetst s = .next t ∧ exec .pcgGetst t = .next u ∧
      resultBytes u = (List.range 8).map (seedByte s)) ∧
    (s.sbLen = 32 → ∃ t u, exec .xosSetst s = .next t ∧ exec .xosGetst t = .next u ∧
      resultBytes u = (List.range 32).map (seedByte s))

/-- 70_reset_and_hazards.md section 4: the engine steps of each command, as its table gives them; that they are the advances, steps
and squarings that `exec` really makes; that they are at most 256; and that they depend on no data but for `BBS.NEXT`. That a
`PCG.SEED` with too short an input runs none is an inference of the model, from the length check coming first; and that the hidden
registers show the passes of a jump at rest is its choice (log 23). -/
def Obligations.EngineStepsAreBounded : Prop :=
  (∀ s : State,
    (∀ i ∈ [Instr.lcgSeed, .lcgSetst, .lcgGetst, .pcgSetst, .pcgGetst, .xosSeed, .xosSetst, .xosGetst, .bbsSeed, .bbsSetst,
      .bbsGetst], engineSteps i s = 0) ∧
    (∀ i ∈ [Instr.lcgGen32, .lcgGen64, .pcgGen32, .xosGen32, .xosGen64], engineSteps i s = 1) ∧
    (8 ≤ s.sbLen.toNat → engineSteps .pcgSeed s = 1) ∧ (s.sbLen.toNat < 8 → engineSteps .pcgSeed s = 0) ∧
    engineSteps .pcgGen64 s = 2 ∧
    (∀ i ∈ [Instr.xosJump, .xosLjump, .xosSplit], engineSteps i s = 256) ∧
    (engineSteps .bbsNext s = 1 ∨ engineSteps .bbsNext s = 2)) ∧
  (∀ s : State,
    (∀ i ∈ [Instr.lcgGen32, .lcgGen64], ∃ t, exec i s = .next t ∧ t.lcgS = lcgAdvance^[engineSteps i s] s.lcgS) ∧
    (∀ i ∈ [Instr.pcgGen32, .pcgGen64], ∃ t, exec i s = .next t ∧ t.pcgS = lcgAdvance^[engineSteps i s] s.pcgS) ∧
    (8 ≤ s.sbLen.toNat → ∃ t, exec .pcgSeed s = .next t ∧
      t.pcgS = lcgAdvance^[engineSteps .pcgSeed s] (Config.lcgInc + s.sb.w0)) ∧
    (∀ i ∈ [Instr.xosGen32, .xosGen64], ∃ t, exec i s = .next t ∧ t.xs = xosPower (engineSteps i s) s.xs) ∧
    (∀ i ∈ [Instr.xosJump, .xosLjump, .xosSplit], ∃ t, exec i s = .next t ∧
      t.xw = xosPower (engineSteps i s) s.xs ∧
      t.xa = (jumpPasses (if i = .xosLjump then s.params.longJumpPoly else s.params.jumpPoly) (engineSteps i s)
        ⟨s.xs, Quad.zero, s.xj⟩).xa ∧
      (if i = .xosSplit then t.rb else t.xs) = t.xa) ∧
    ∃ t, exec .bbsNext s = .next t ∧ t.bbsC.toInt = bbsSquare^[engineSteps .bbsNext s] s.bbsC.toInt ∧
      bbsLoop (engineSteps .bbsNext s) s.bbsC.toInt = (t.bbsC.toInt, engineSteps .bbsNext s) ∧
      (engineSteps .bbsNext s = 2 ↔ bbsSquare s.bbsC.toInt = Config.bbsR)) ∧
  (∀ (i : Instr) (s : State), engineSteps i s ≤ 256) ∧
  ∀ (i : Instr) (s t : State), i ≠ .bbsNext → minLen i ≤ s.sbLen.toNat → minLen i ≤ t.sbLen.toNat →
    engineSteps i s = engineSteps i t

/-! ### Byte order and host programs -/

/-- 20_memory.md R57: byte `k` of a sequence is byte `k mod 8`, from the most significant end, of word `k div 8`, in the seed buffer and
in the result buffer. -/
def Obligations.ByteSequencesAreBigEndian : Prop :=
  ∀ (s : State) (k : Nat), k < 32 →
    (seedByte s k).toNat = ([s.sb.w0, s.sb.w1, s.sb.w2, s.sb.w3].getD (k / 8) 0).toNat / 2 ^ (56 - 8 * (k % 8)) % 256 ∧
    (k < s.rbLen.toNat → ∃ b, (resultBytes s)[k]? = some b ∧
      b.toNat = ([s.rb.w0, s.rb.w1, s.rb.w2, s.rb.w3].getD (k / 8) 0).toNat / 2 ^ (56 - 8 * (k % 8)) % 256)

/-- 00_scope.md section 5: `BE64` takes its first byte as the most significant, and `Bytes64` is its inverse on both sides. -/
def Obligations.Be64AndBytes64AreInverse : Prop :=
  (∀ b0 b1 b2 b3 b4 b5 b6 b7 : Byte,
    bytes64 (be64 b0 b1 b2 b3 b4 b5 b6 b7) = [b0, b1, b2, b3, b4, b5, b6, b7] ∧
    (be64 b0 b1 b2 b3 b4 b5 b6 b7).toNat =
      ((((((b0.toNat * 256 + b1.toNat) * 256 + b2.toNat) * 256 + b3.toNat) * 256 + b4.toNat) * 256 + b5.toNat) * 256 +
        b6.toNat) * 256 + b7.toNat) ∧
  ∀ w : Word, be64 (wordByte w 0) (wordByte w 1) (wordByte w 2) (wordByte w 3) (wordByte w 4) (wordByte w 5) (wordByte w 6)
    (wordByte w 7) = w

/-- 30_encoding.md section 4: the transactions of `SEEDB` load the first 32 bytes of the sequence and its length, at most 65535, and
touch no engine. -/
def Obligations.SeedbLoadsTheByteSequence : Prop :=
  ∀ (s : State) (bytes : List Byte) (got : Reg → Word),
    s.pending = (expandStmt s.params got (.seedb bytes)).map .access →
      ∃ t, Sys2Proof.core.run s.pending.length s = .next t ∧ t.pending = [] ∧ seedLen t = min bytes.length 65535 ∧
        (∀ k, k < 32 → k < bytes.length → bytes[k]? = some (seedByte t k)) ∧ SameEngines s t ∧ SameResults s t

/-- 30_encoding.md section 4: the ten transactions of `COPYSTATE`, written with the values its reads return, copy the result buffer and
its length into the seed buffer, and answer those values. -/
def Obligations.CopystateCopiesTheResultBuffer : Prop :=
  ∀ s : State, s.pending = (expandStmt s.params (readReg s) .copystate).map .access →
    Sys2Proof.core.run 10 s = .next { s with
      sb := s.rb
      sbLen := s.rbLen.setWidth 16
      pending := []
      responses := s.responses ++ [.data (s.rbLen.setWidth 64), .data s.rb.w0, .data s.rb.w1, .data s.rb.w2, .data s.rb.w3,
        .done, .done, .done, .done, .done] }

/-- 60_exceptions.md section 5, as the model's list of instances (log 15): a step of one instance changes no other. -/
def Obligations.InstancesShareNothing : Prop :=
  ∀ (k : Nat) (sys : List State) (s : State), sys[k]? = some s →
    (∀ s', step s = .next s' → ∃ sys', stepInstance k sys = .next sys' ∧ sys'[k]? = some s' ∧
      sys'.length = sys.length ∧ ∀ j, j ≠ k → sys'[j]? = sys[j]?) ∧
    ∀ f, step s = .fault f → stepInstance k sys = .fault f

/-! ### LCG64 -/

/-- 41_lcg64.md R111 and R112. -/
def Obligations.LcgSeedAndSetstLoadTheFirstWord : Prop :=
  decode 0x01 = .ok .lcgSeed ∧ decode 0x02 = .ok .lcgSetst ∧ ∀ s : State,
    (8 ≤ s.sbLen.toNat → exec .lcgSeed s = .next { s with lcgS := s.sb.w0, err := .ok } ∧
      exec .lcgSetst s = .next { s with lcgS := s.sb.w0, err := .ok }) ∧
    (s.sbLen.toNat < 8 → exec .lcgSeed s = .next { s with err := .invalidLength } ∧
      exec .lcgSetst s = .next { s with err := .invalidLength })

/-- 41_lcg64.md R113. -/
def Obligations.LcgGetstPutsTheStateInTheResultBuffer : Prop :=
  decode 0x03 = .ok .lcgGetst ∧ ∀ s : State,
    exec .lcgGetst s = .next { s with rb := ⟨s.lcgS, 0, 0, 0⟩, rbLen := 8, err := .ok }

/-- 41_lcg64.md R114, for both values of `GEN32_HALF_LCG`. -/
def Obligations.LcgGen32AdvancesOnceAndReturnsAHalf : Prop :=
  decode 0x04 = .ok .lcgGen32 ∧ ∀ s : State,
    let a := (1442695040888963407 + 6364136223846793005 * s.lcgS.toNat) % 2 ^ 64
    exec .lcgGen32 s = .next { s with
      lcgS := BitVec.ofNat 64 a
      res := BitVec.ofNat 64 (if s.params.gen32HalfLcg = .low then a % 2 ^ 32 else a / 2 ^ 32)
      err := .ok }

/-- 41_lcg64.md R115: the low 64 bits of the full product and sum are both the new state and the result. -/
def Obligations.LcgGen64ReturnsTheAdvancedState : Prop :=
  decode 0x05 = .ok .lcgGen64 ∧ ∀ s : State,
    let a := (1442695040888963407 + 6364136223846793005 * s.lcgS.toNat) % 2 ^ 64
    exec .lcgGen64 s = .next { s with lcgS := BitVec.ofNat 64 a, res := BitVec.ofNat 64 a, err := .ok }

/-- 41_lcg64.md section 2 (the spec's own inference): `n` commands `LCG.GEN64` bring the state back exactly where `2^64` divides `n`,
and the last result is the state. -/
def Obligations.LcgHasFullPeriod : Prop :=
  ∀ (s : State) (n : Nat), ∃ t, runCommands (List.replicate n .lcgGen64) s = .next t ∧
    (t.lcgS = s.lcgS ↔ 2 ^ 64 ∣ n) ∧ (0 < n → t.res = t.lcgS)

/-- 41_lcg64.md section 1 (the spec's own inference): bit 0 of successive outputs alternates. -/
def Obligations.LcgBitZeroAlternates : Prop :=
  ∀ s : State, ∃ t u, exec .lcgGen64 s = .next t ∧ exec .lcgGen64 t = .next u ∧
    t.res.getLsbD 0 = !s.lcgS.getLsbD 0 ∧ u.res.getLsbD 0 = !t.res.getLsbD 0

/-! ### PCG-XSH-RR -/

/-- 42_pcg.md R130 as numbers: with `x` the state exclusive-ored with itself shifted right by 18, the 32 bits 58:27 of `x` rotated right
by the top five bits of the state. -/
def Obligations.PcgPermuteRotatesTheShiftedState : Prop :=
  ∀ a : Word,
    let count := a.toNat / 2 ^ 59
    let b := (a.toNat ^^^ (a.toNat / 2 ^ 18)) / 2 ^ 27 % 2 ^ 32
    (pcgPermute a).toNat = (b / 2 ^ count + b * 2 ^ (32 - count)) % 2 ^ 32

/-- 42_pcg.md R131. -/
def Obligations.PcgSeedAddsTheIncrementAndWarmsUp : Prop :=
  decode 0x11 = .ok .pcgSeed ∧ ∀ s : State,
    (8 ≤ s.sbLen.toNat → exec .pcgSeed s = .next { s with
      pcgS := BitVec.ofNat 64 (1442695040888963407 + 6364136223846793005 * (1442695040888963407 + s.sb.w0.toNat))
      err := .ok }) ∧
    (s.sbLen.toNat < 8 → exec .pcgSeed s = .next { s with err := .invalidLength })

/-- 42_pcg.md R132. -/
def Obligations.PcgSetstLoadsDirectly : Prop :=
  decode 0x12 = .ok .pcgSetst ∧ ∀ s : State,
    (8 ≤ s.sbLen.toNat → exec .pcgSetst s = .next { s with pcgS := s.sb.w0, err := .ok }) ∧
    (s.sbLen.toNat < 8 → exec .pcgSetst s = .next { s with err := .invalidLength })

/-- 42_pcg.md R133. -/
def Obligations.PcgGetstPutsTheStateInTheResultBuffer : Prop :=
  decode 0x13 = .ok .pcgGetst ∧ ∀ s : State,
    exec .pcgGetst s = .next { s with rb := ⟨s.pcgS, 0, 0, 0⟩, rbLen := 8, err := .ok }

/-- 42_pcg.md R134 and R136: the result permutes the state before the advance. -/
def Obligations.PcgGen32PermutesTheOldState : Prop :=
  decode 0x14 = .ok .pcgGen32 ∧ ∀ s : State,
    exec .pcgGen32 s = .next { s with
      pcgS := BitVec.ofNat 64 (1442695040888963407 + 6364136223846793005 * s.pcgS.toNat)
      res := BitVec.ofNat 64 (pcgPermute s.pcgS).toNat
      err := .ok }

/-- 42_pcg.md R135: two outputs, the first in the high half, and two advances. -/
def Obligations.PcgGen64JoinsTwoOutputs : Prop :=
  decode 0x15 = .ok .pcgGen64 ∧ ∀ s : State,
    let a := BitVec.ofNat 64 (1442695040888963407 + 6364136223846793005 * s.pcgS.toNat)
    exec .pcgGen64 s = .next { s with
      pcgS := BitVec.ofNat 64 (1442695040888963407 + 6364136223846793005 * a.toNat)
      res := BitVec.ofNat 64 ((pcgPermute s.pcgS).toNat * 2 ^ 32 + (pcgPermute a).toNat)
      err := .ok }

/-- 42_pcg.md section 2 (the spec's own inference): `PCG.GEN64` is two `PCG.GEN32`, the first result in the high half. -/
def Obligations.PcgGen64IsTwoGen32 : Prop :=
  ∀ s : State, ∃ t u v, exec .pcgGen32 s = .next t ∧ exec .pcgGen32 t = .next u ∧ exec .pcgGen64 s = .next v ∧
    v.pcgS = u.pcgS ∧ v.res.toNat = t.res.toNat * 2 ^ 32 + u.res.toNat

/-- 42_pcg.md section 2 (the spec's own inference): every 64-bit state is the state after exactly one seed word. -/
def Obligations.PcgSeedIsABijection : Prop :=
  ∀ (s : State) (target : Word), 8 ≤ s.sbLen.toNat →
    ∃ w : Word, (∃ t, exec .pcgSeed { s with sb := { s.sb with w0 := w } } = .next t ∧ t.pcgS = target) ∧
      ∀ (w' : Word) (t : State), exec .pcgSeed { s with sb := { s.sb with w0 := w' } } = .next t → t.pcgS = target → w' = w

/-! ### Xoshiro256** -/

/-- 43_xoshiro.md R150 and R152: no partial load. -/
def Obligations.XosSeedAndSetstLoadFourWords : Prop :=
  decode 0x21 = .ok .xosSeed ∧ decode 0x22 = .ok .xosSetst ∧ ∀ s : State,
    (32 ≤ s.sbLen.toNat → exec .xosSeed s = .next { s with xs := ⟨s.sb.w0, s.sb.w1, s.sb.w2, s.sb.w3⟩, err := .ok } ∧
      exec .xosSetst s = .next { s with xs := ⟨s.sb.w0, s.sb.w1, s.sb.w2, s.sb.w3⟩, err := .ok }) ∧
    (s.sbLen.toNat < 32 → exec .xosSeed s = .next { s with err := .invalidLength } ∧
      exec .xosSetst s = .next { s with err := .invalidLength })

/-- 43_xoshiro.md R153. -/
def Obligations.XosGetstPutsFourWords : Prop :=
  decode 0x23 = .ok .xosGetst ∧ ∀ s : State,
    exec .xosGetst s = .next { s with rb := ⟨s.xs.w0, s.xs.w1, s.xs.w2, s.xs.w3⟩, rbLen := 32, err := .ok }

/-- 43_xoshiro.md R151 and R156, the in-place statements worked out to the words on entry: the output from word 1 as it was, and the
four new words. -/
def Obligations.XosGen64StepsInPlace : Prop :=
  decode 0x25 = .ok .xosGen64 ∧ ∀ s : State,
    exec .xosGen64 s = .next { s with
      xs := ⟨s.xs.w0 ^^^ s.xs.w1 ^^^ s.xs.w3, s.xs.w0 ^^^ s.xs.w1 ^^^ s.xs.w2,
             s.xs.w0 ^^^ s.xs.w2 ^^^ (s.xs.w1 <<< 17), (s.xs.w1 ^^^ s.xs.w3).rotateLeft 45⟩
      res := (s.xs.w1 * 5).rotateLeft 7 * 9
      err := .ok }

/-- 43_xoshiro.md R154, for both values of `GEN32_HALF_XOS`: the state after is that of `XOS.GEN64`, the result a half of its
result. -/
def Obligations.XosGen32ReturnsAHalfOfGen64 : Prop :=
  decode 0x24 = .ok .xosGen32 ∧ ∀ s : State, ∃ t, exec .xosGen64 s = .next t ∧
    exec .xosGen32 s = .next { t with
      res := BitVec.ofNat 64 (if s.params.gen32HalfXos = .low then t.res.toNat % 2 ^ 32 else t.res.toNat / 2 ^ 32) }

/-- 43_xoshiro.md sections 2 and 3, the jump multiplier through the commands `XOS.JUMP` and `XOS.LJUMP`: for every polynomial, the new
state is the polynomial of the step applied to the old one, after 256 passes. That the hidden registers keep at rest what the loop
left in them is the model's choice (log 23). -/
def Obligations.XosJumpsEvaluateTheirPolynomial : Prop :=
  ∀ s : State,
    exec .xosJump s = .next { s with
      xs := polyEval s.params.jumpPoly s.xs
      xw := xosPower 256 s.xs
      xa := polyEval s.params.jumpPoly s.xs
      xj := 256
      err := .ok } ∧
    exec .xosLjump s = .next { s with
      xs := polyEval s.params.longJumpPoly s.xs
      xw := xosPower 256 s.xs
      xa := polyEval s.params.longJumpPoly s.xs
      xj := 256
      err := .ok }

/-- 43_xoshiro.md section 3: the child is `XorJump` of `JUMP_POLY` and `XS`, in the result buffer; the parent and `RES` stay. That the
hidden registers keep at rest what the loop left in them is the model's choice (log 23). -/
def Obligations.XosSplitPutsTheJumpedChildInTheResultBuffer : Prop :=
  decode 0x28 = .ok .xosSplit ∧ ∀ s : State,
    let u := xorJump s.params.jumpPoly s.xs s.xj
    exec .xosSplit s = .next { s with rb := u.xa, rbLen := 32, xw := u.xw, xa := u.xa, xj := u.xj, err := .ok }

/-- 43_xoshiro.md section 3 (the spec's own inference): the child that `XOS.SPLIT` puts in the result buffer is the state that
`XOS.JUMP` would leave in `XS`, and loading it with `XOS.SETST` gives that state. -/
def Obligations.XosSplitChildIsTheJumpedState : Prop :=
  ∀ s : State, ∃ c j l, exec .xosSplit s = .next c ∧ exec .xosJump s = .next j ∧ c.rb = j.xs ∧ c.xs = s.xs ∧
    exec .xosSetst { c with sb := c.rb, sbLen := c.rbLen.setWidth 16 } = .next l ∧ l.xs = j.xs ∧ l.err = .ok

/-- 43_xoshiro.md section 3 (the spec's own inference): a jump commutes with a step, for every jump polynomial. -/
def Obligations.XosJumpCommutesWithAStep : Prop :=
  ∀ s : State, ∃ a b c d, exec .xosJump s = .next a ∧ exec .xosGen64 a = .next b ∧ exec .xosGen64 s = .next c ∧
    exec .xosJump c = .next d ∧ b.xs = d.xs

/-- 00_scope.md section 4 (its default polynomials, checked there by computation) and 43_xoshiro.md section 3: with the default
polynomials `XOS.JUMP` is exactly 2^128 steps and `XOS.LJUMP` exactly 2^192. -/
def Obligations.XosJumpsAdvanceTheStatedDistances : Prop :=
  ∀ s : State,
    (s.params.jumpPoly = Params.default.jumpPoly → ∃ t, exec .xosJump s = .next t ∧ t.xs = xosPower (2 ^ 128) s.xs) ∧
    (s.params.longJumpPoly = Params.default.longJumpPoly → ∃ t, exec .xosLjump s = .next t ∧ t.xs = xosPower (2 ^ 192) s.xs)

/-- 43_xoshiro.md section 3, its computed values from `(1, 2, 3, 4)` with the default polynomials: the long jump and three jumps
differ. -/
def Obligations.XosLongJumpIsNotThreeJumps : Prop :=
  ∀ s : State, s.xs = ⟨1, 2, 3, 4⟩ → s.params.jumpPoly = Params.default.jumpPoly →
    s.params.longJumpPoly = Params.default.longJumpPoly →
      (∃ t, exec .xosLjump s = .next t ∧
        t.xs = ⟨0x096A8EB71295A400, 0xDBF84991E50F4516, 0x534EE745810D2A0E, 0x31655CA1A2215BF1⟩) ∧
      ∃ t, runCommands [.xosJump, .xosJump, .xosJump] s = .next t ∧
        t.xs = ⟨0xBDFA9347DB2D049D, 0x584101964889DF44, 0x07EDCDD8DBB0B142, 0xC70EE2F6FA675B99⟩

/-- 43_xoshiro.md section 1 (the spec's own inference): the zero state is fixed by every step and jump, and no other state steps to
it. -/
def Obligations.XosZeroIsAFixedPointReachedFromNoOther : Prop :=
  (∀ s : State, s.xs = ⟨0, 0, 0, 0⟩ → ∃ a b c d, exec .xosGen64 s = .next a ∧ a.xs = ⟨0, 0, 0, 0⟩ ∧ a.res = 0 ∧
    exec .xosGen32 s = .next b ∧ b.xs = ⟨0, 0, 0, 0⟩ ∧ exec .xosJump s = .next c ∧ c.xs = ⟨0, 0, 0, 0⟩ ∧
    exec .xosLjump s = .next d ∧ d.xs = ⟨0, 0, 0, 0⟩) ∧
  ∀ s t : State, exec .xosGen64 s = .next t → t.xs = ⟨0, 0, 0, 0⟩ → s.xs = ⟨0, 0, 0, 0⟩

/-! ### Blum Blum Shub -/

/-- 44_bbs.md R181 and R183, for both values of `BBS_SEED_SIGNED`, whatever `SBLEN` is. -/
def Obligations.BbsSeedAndSetstLoadTheInteger : Prop :=
  decode 0x31 = .ok .bbsSeed ∧ decode 0x32 = .ok .bbsSetst ∧ ∀ s : State, ∃ t,
    exec .bbsSeed s = .next t ∧ exec .bbsSetst s = .next t ∧
    t.bbsC.toInt = (if s.params.bbsSeedSigned then s.sb.w0.toInt else (s.sb.w0.toNat : Int)) ∧
    t = { s with bbsC := t.bbsC, err := .ok }

/-- 44_bbs.md R184: the low 64 bits of the state. -/
def Obligations.BbsGetstPutsTheLowWord : Prop :=
  decode 0x33 = .ok .bbsGetst ∧ ∀ s : State,
    exec .bbsGetst s = .next { s with rb := ⟨s.bbsC.setWidth 64, 0, 0, 0⟩, rbLen := 8, err := .ok }

/-- 44_bbs.md R182 and R185: the square modulo `2^64 + 1`, and where that is `2^64` the next square, which is 1; so the result is
always below `2^64`. -/
def Obligations.BbsNextSquaresAndRejects : Prop :=
  decode 0x35 = .ok .bbsNext ∧ ∀ s : State,
    let v := s.bbsC.toInt * s.bbsC.toInt % (2 ^ 64 + 1)
    let r := if v = 2 ^ 64 then 1 else v
    0 ≤ r ∧ r < 2 ^ 64 ∧
    exec .bbsNext s = .next { s with bbsC := BitVec.ofNat 66 r.toNat, res := BitVec.ofNat 64 r.toNat, err := .ok }

/-- 44_bbs.md section 1 (the spec's own inference): the rejection loop stops after one squaring or two, whatever bound of two or more
the loop is given. -/
def Obligations.BbsRejectionLoopStopsAfterTwo : Prop :=
  ∀ (c : Int) (n : Nat), bbsLoop (n + 2) c = (bbsNext c, bbsSquarings c) ∧ (bbsSquarings c = 1 ∨ bbsSquarings c = 2) ∧
    bbsNext c ≠ Config.bbsR ∧ (bbsSquarings c = 2 → bbsNext c = 1)

/-- 44_bbs.md section 1 (the spec's own inference): a state of `[0, 2^64)` is rejected once exactly where it is one of the four square
roots of -1. -/
def Obligations.BbsRejectsExactlyTheFourRoots : Prop :=
  ∀ s : State, 0 ≤ s.bbsC.toInt → s.bbsC.toInt < 2 ^ 64 →
    (engineSteps .bbsNext s = 2 ↔
      s.bbsC.toInt ∈ ([0x0000000100000000, 0x13A1CDE551C61422, 0xEC5E321AAE39EBDF, 0xFFFFFFFF00000001] : List Int))

/-- 44_bbs.md section 1 (the spec's own inference): a state of `[0, 2^64)` is left unchanged exactly where it is one of the four
idempotents. -/
def Obligations.BbsHasExactlyFourFixedPoints : Prop :=
  ∀ s : State, 0 ≤ s.bbsC.toInt → s.bbsC.toInt < 2 ^ 64 → ∃ t, exec .bbsNext s = .next t ∧
    (t.bbsC = s.bbsC ↔ s.bbsC.toInt ∈ ([0, 1, 0x28E30A10F62F190E, 0xD71CF5EF09D0E6F4] : List Int))

/-- 44_bbs.md section 3 (the spec's own inference): from a state at rest, `BBS.GETST` and `BBS.SETST` of the word it gave restore the
state exactly, when the seed is unsigned or the state is below `2^63`. For a signed seed and a state of `[2^63, 2^64)`, which
`BBS.NEXT` can leave, the rules themselves do not restore it: the word has bit 63 set and reads back as a negative integer (log 22). -/
def Obligations.BbsRoundTripAtRest : Prop :=
  ∀ s : State, BbsAtRest s.params s.bbsC →
    ∃ t u, exec .bbsGetst s = .next t ∧ exec .bbsSetst { t with sb := { t.sb with w0 := t.rb.w0 } } = .next u ∧ u.err = .ok ∧
      (s.params.bbsSeedSigned = false ∨ s.bbsC.toInt < 2 ^ 63 → u.bbsC = s.bbsC) ∧
      (s.params.bbsSeedSigned = true ∧ 2 ^ 63 ≤ s.bbsC.toInt → u.bbsC.toInt = s.bbsC.toInt - 2 ^ 64)
end

