-- ==== Sys2Proof/Laws/Bits.lean ====
section
/-! SUPPORT. What the bit, byte and sign helpers compute, in the terms of core's bit vectors and of numbers: one lemma a helper. -/

namespace Sys2Proof.Machine

/-- `rotl64` below a whole turn is core's rotation (00_scope.md R16). -/
theorem rotl64_eq_rotateLeft (x : Word) {k : Nat} (h0 : 0 < k) (h : k < 64) : rotl64 x k = x.rotateLeft k := by
  rw [rotl64, BitVec.rotateLeft_def, Nat.mod_eq_of_lt h, Nat.mod_eq_of_lt (by omega : 64 - k < 64)]

/-- `rotr32` below a whole turn is core's rotation (00_scope.md R16). -/
theorem rotr32_eq_rotateRight (x : BitVec 32) {k : Nat} (h0 : 0 < k) (h : k < 32) : rotr32 x k = x.rotateRight k := by
  rw [rotr32, BitVec.rotateRight_def, Nat.mod_eq_of_lt h, Nat.mod_eq_of_lt (by omega : 32 - k < 32)]

theorem rotr32_zero (x : BitVec 32) : rotr32 x 0 = x := by
  simp [rotr32]

theorem wordByte_toNat (w : Word) (k : Nat) : (wordByte w k).toNat = w.toNat / 2 ^ (56 - 8 * (k % 8)) % 256 := by
  simp [wordByte, BitVec.extractLsb'_toNat, Nat.shiftRight_eq_div_pow]

theorem halfOf_toNat (h : Half) (w : Word) :
    (halfOf h w).toNat = if h = .low then w.toNat % 2 ^ 32 else w.toNat / 2 ^ 32 := by
  cases h
  · simp [halfOf, BitVec.extractLsb'_toNat]
  · simp only [halfOf, BitVec.extractLsb'_toNat, Nat.shiftRight_eq_div_pow, reduceCtorEq, if_false]
    have := w.isLt
    omega

/-- `BBS_C` holds every integer of its range exactly (44_bbs.md R180). -/
theorem bbsHold_toInt {c : Int} (hlo : -(2 ^ 65) ≤ c) (hhi : c < 2 ^ 65) : (bbsHold c).toInt = c := by
  rw [bbsHold, BitVec.toInt_ofInt]
  exact Int.bmod_eq_of_le (by norm_num; omega) (by norm_num; omega)

/-- The range of a seed value (44_bbs.md R180). -/
theorem seedValue_range (p : Params) (w : Word) :
    (if p.bbsSeedSigned then -(2 ^ 63) else 0) ≤ seedValue p w ∧ seedValue p w < 2 ^ 64 := by
  have h1 := w.isLt
  have h2 := BitVec.two_mul_toInt_lt (x := w)
  have h3 := BitVec.le_two_mul_toInt (x := w)
  unfold seedValue
  split <;> omega

end Sys2Proof.Machine
end

