-- ==== Sys2Proof/Laws/State.lean ====
section
/-! SUPPORT. For each named update of the state, what each field is after it: one lemma a field, true by rfl, and the update as
a record (`_eq`). Later proofs rewrite with these and never unfold an update. -/

namespace Sys2Proof.Machine

variable (s : State)

@[simp] theorem setErr_lcgS (e : ErrCode) : (s.setErr e).lcgS = s.lcgS := rfl
@[simp] theorem setErr_pcgS (e : ErrCode) : (s.setErr e).pcgS = s.pcgS := rfl
@[simp] theorem setErr_xs (e : ErrCode) : (s.setErr e).xs = s.xs := rfl
@[simp] theorem setErr_bbsC (e : ErrCode) : (s.setErr e).bbsC = s.bbsC := rfl
@[simp] theorem setErr_err (e : ErrCode) : (s.setErr e).err = e := rfl
@[simp] theorem setErr_sbLen (e : ErrCode) : (s.setErr e).sbLen = s.sbLen := rfl
@[simp] theorem setErr_sb (e : ErrCode) : (s.setErr e).sb = s.sb := rfl
@[simp] theorem setErr_res (e : ErrCode) : (s.setErr e).res = s.res := rfl
@[simp] theorem setErr_rbLen (e : ErrCode) : (s.setErr e).rbLen = s.rbLen := rfl
@[simp] theorem setErr_rb (e : ErrCode) : (s.setErr e).rb = s.rb := rfl
@[simp] theorem setErr_xw (e : ErrCode) : (s.setErr e).xw = s.xw := rfl
@[simp] theorem setErr_xa (e : ErrCode) : (s.setErr e).xa = s.xa := rfl
@[simp] theorem setErr_xj (e : ErrCode) : (s.setErr e).xj = s.xj := rfl
@[simp] theorem setErr_params (e : ErrCode) : (s.setErr e).params = s.params := rfl
@[simp] theorem setErr_pending (e : ErrCode) : (s.setErr e).pending = s.pending := rfl
@[simp] theorem setErr_responses (e : ErrCode) : (s.setErr e).responses = s.responses := rfl
theorem setErr_eq (e : ErrCode) : s.setErr e = { s with err := e } := rfl

@[simp] theorem setLcg_lcgS (v : Word) : (s.setLcg v).lcgS = v := rfl
@[simp] theorem setLcg_pcgS (v : Word) : (s.setLcg v).pcgS = s.pcgS := rfl
@[simp] theorem setLcg_xs (v : Word) : (s.setLcg v).xs = s.xs := rfl
@[simp] theorem setLcg_bbsC (v : Word) : (s.setLcg v).bbsC = s.bbsC := rfl
@[simp] theorem setLcg_err (v : Word) : (s.setLcg v).err = s.err := rfl
@[simp] theorem setLcg_sbLen (v : Word) : (s.setLcg v).sbLen = s.sbLen := rfl
@[simp] theorem setLcg_sb (v : Word) : (s.setLcg v).sb = s.sb := rfl
@[simp] theorem setLcg_res (v : Word) : (s.setLcg v).res = s.res := rfl
@[simp] theorem setLcg_rbLen (v : Word) : (s.setLcg v).rbLen = s.rbLen := rfl
@[simp] theorem setLcg_rb (v : Word) : (s.setLcg v).rb = s.rb := rfl
@[simp] theorem setLcg_xw (v : Word) : (s.setLcg v).xw = s.xw := rfl
@[simp] theorem setLcg_xa (v : Word) : (s.setLcg v).xa = s.xa := rfl
@[simp] theorem setLcg_xj (v : Word) : (s.setLcg v).xj = s.xj := rfl
@[simp] theorem setLcg_params (v : Word) : (s.setLcg v).params = s.params := rfl
@[simp] theorem setLcg_pending (v : Word) : (s.setLcg v).pending = s.pending := rfl
@[simp] theorem setLcg_responses (v : Word) : (s.setLcg v).responses = s.responses := rfl
theorem setLcg_eq (v : Word) : s.setLcg v = { s with lcgS := v } := rfl

@[simp] theorem setPcg_lcgS (v : Word) : (s.setPcg v).lcgS = s.lcgS := rfl
@[simp] theorem setPcg_pcgS (v : Word) : (s.setPcg v).pcgS = v := rfl
@[simp] theorem setPcg_xs (v : Word) : (s.setPcg v).xs = s.xs := rfl
@[simp] theorem setPcg_bbsC (v : Word) : (s.setPcg v).bbsC = s.bbsC := rfl
@[simp] theorem setPcg_err (v : Word) : (s.setPcg v).err = s.err := rfl
@[simp] theorem setPcg_sbLen (v : Word) : (s.setPcg v).sbLen = s.sbLen := rfl
@[simp] theorem setPcg_sb (v : Word) : (s.setPcg v).sb = s.sb := rfl
@[simp] theorem setPcg_res (v : Word) : (s.setPcg v).res = s.res := rfl
@[simp] theorem setPcg_rbLen (v : Word) : (s.setPcg v).rbLen = s.rbLen := rfl
@[simp] theorem setPcg_rb (v : Word) : (s.setPcg v).rb = s.rb := rfl
@[simp] theorem setPcg_xw (v : Word) : (s.setPcg v).xw = s.xw := rfl
@[simp] theorem setPcg_xa (v : Word) : (s.setPcg v).xa = s.xa := rfl
@[simp] theorem setPcg_xj (v : Word) : (s.setPcg v).xj = s.xj := rfl
@[simp] theorem setPcg_params (v : Word) : (s.setPcg v).params = s.params := rfl
@[simp] theorem setPcg_pending (v : Word) : (s.setPcg v).pending = s.pending := rfl
@[simp] theorem setPcg_responses (v : Word) : (s.setPcg v).responses = s.responses := rfl
theorem setPcg_eq (v : Word) : s.setPcg v = { s with pcgS := v } := rfl

@[simp] theorem setXs_lcgS (q : Quad) : (s.setXs q).lcgS = s.lcgS := rfl
@[simp] theorem setXs_pcgS (q : Quad) : (s.setXs q).pcgS = s.pcgS := rfl
@[simp] theorem setXs_xs (q : Quad) : (s.setXs q).xs = q := rfl
@[simp] theorem setXs_bbsC (q : Quad) : (s.setXs q).bbsC = s.bbsC := rfl
@[simp] theorem setXs_err (q : Quad) : (s.setXs q).err = s.err := rfl
@[simp] theorem setXs_sbLen (q : Quad) : (s.setXs q).sbLen = s.sbLen := rfl
@[simp] theorem setXs_sb (q : Quad) : (s.setXs q).sb = s.sb := rfl
@[simp] theorem setXs_res (q : Quad) : (s.setXs q).res = s.res := rfl
@[simp] theorem setXs_rbLen (q : Quad) : (s.setXs q).rbLen = s.rbLen := rfl
@[simp] theorem setXs_rb (q : Quad) : (s.setXs q).rb = s.rb := rfl
@[simp] theorem setXs_xw (q : Quad) : (s.setXs q).xw = s.xw := rfl
@[simp] theorem setXs_xa (q : Quad) : (s.setXs q).xa = s.xa := rfl
@[simp] theorem setXs_xj (q : Quad) : (s.setXs q).xj = s.xj := rfl
@[simp] theorem setXs_params (q : Quad) : (s.setXs q).params = s.params := rfl
@[simp] theorem setXs_pending (q : Quad) : (s.setXs q).pending = s.pending := rfl
@[simp] theorem setXs_responses (q : Quad) : (s.setXs q).responses = s.responses := rfl
theorem setXs_eq (q : Quad) : s.setXs q = { s with xs := q } := rfl

@[simp] theorem setBbs_lcgS (c : Int) : (s.setBbs c).lcgS = s.lcgS := rfl
@[simp] theorem setBbs_pcgS (c : Int) : (s.setBbs c).pcgS = s.pcgS := rfl
@[simp] theorem setBbs_xs (c : Int) : (s.setBbs c).xs = s.xs := rfl
@[simp] theorem setBbs_bbsC (c : Int) : (s.setBbs c).bbsC = bbsHold c := rfl
@[simp] theorem setBbs_err (c : Int) : (s.setBbs c).err = s.err := rfl
@[simp] theorem setBbs_sbLen (c : Int) : (s.setBbs c).sbLen = s.sbLen := rfl
@[simp] theorem setBbs_sb (c : Int) : (s.setBbs c).sb = s.sb := rfl
@[simp] theorem setBbs_res (c : Int) : (s.setBbs c).res = s.res := rfl
@[simp] theorem setBbs_rbLen (c : Int) : (s.setBbs c).rbLen = s.rbLen := rfl
@[simp] theorem setBbs_rb (c : Int) : (s.setBbs c).rb = s.rb := rfl
@[simp] theorem setBbs_xw (c : Int) : (s.setBbs c).xw = s.xw := rfl
@[simp] theorem setBbs_xa (c : Int) : (s.setBbs c).xa = s.xa := rfl
@[simp] theorem setBbs_xj (c : Int) : (s.setBbs c).xj = s.xj := rfl
@[simp] theorem setBbs_params (c : Int) : (s.setBbs c).params = s.params := rfl
@[simp] theorem setBbs_pending (c : Int) : (s.setBbs c).pending = s.pending := rfl
@[simp] theorem setBbs_responses (c : Int) : (s.setBbs c).responses = s.responses := rfl
theorem setBbs_eq (c : Int) : s.setBbs c = { s with bbsC := bbsHold c } := rfl

@[simp] theorem setRes_lcgS (v : Word) : (s.setRes v).lcgS = s.lcgS := rfl
@[simp] theorem setRes_pcgS (v : Word) : (s.setRes v).pcgS = s.pcgS := rfl
@[simp] theorem setRes_xs (v : Word) : (s.setRes v).xs = s.xs := rfl
@[simp] theorem setRes_bbsC (v : Word) : (s.setRes v).bbsC = s.bbsC := rfl
@[simp] theorem setRes_err (v : Word) : (s.setRes v).err = s.err := rfl
@[simp] theorem setRes_sbLen (v : Word) : (s.setRes v).sbLen = s.sbLen := rfl
@[simp] theorem setRes_sb (v : Word) : (s.setRes v).sb = s.sb := rfl
@[simp] theorem setRes_res (v : Word) : (s.setRes v).res = v := rfl
@[simp] theorem setRes_rbLen (v : Word) : (s.setRes v).rbLen = s.rbLen := rfl
@[simp] theorem setRes_rb (v : Word) : (s.setRes v).rb = s.rb := rfl
@[simp] theorem setRes_xw (v : Word) : (s.setRes v).xw = s.xw := rfl
@[simp] theorem setRes_xa (v : Word) : (s.setRes v).xa = s.xa := rfl
@[simp] theorem setRes_xj (v : Word) : (s.setRes v).xj = s.xj := rfl
@[simp] theorem setRes_params (v : Word) : (s.setRes v).params = s.params := rfl
@[simp] theorem setRes_pending (v : Word) : (s.setRes v).pending = s.pending := rfl
@[simp] theorem setRes_responses (v : Word) : (s.setRes v).responses = s.responses := rfl
theorem setRes_eq (v : Word) : s.setRes v = { s with res := v } := rfl

@[simp] theorem setSbLen_lcgS (n : BitVec 16) : (s.setSbLen n).lcgS = s.lcgS := rfl
@[simp] theorem setSbLen_pcgS (n : BitVec 16) : (s.setSbLen n).pcgS = s.pcgS := rfl
@[simp] theorem setSbLen_xs (n : BitVec 16) : (s.setSbLen n).xs = s.xs := rfl
@[simp] theorem setSbLen_bbsC (n : BitVec 16) : (s.setSbLen n).bbsC = s.bbsC := rfl
@[simp] theorem setSbLen_err (n : BitVec 16) : (s.setSbLen n).err = s.err := rfl
@[simp] theorem setSbLen_sbLen (n : BitVec 16) : (s.setSbLen n).sbLen = n := rfl
@[simp] theorem setSbLen_sb (n : BitVec 16) : (s.setSbLen n).sb = s.sb := rfl
@[simp] theorem setSbLen_res (n : BitVec 16) : (s.setSbLen n).res = s.res := rfl
@[simp] theorem setSbLen_rbLen (n : BitVec 16) : (s.setSbLen n).rbLen = s.rbLen := rfl
@[simp] theorem setSbLen_rb (n : BitVec 16) : (s.setSbLen n).rb = s.rb := rfl
@[simp] theorem setSbLen_xw (n : BitVec 16) : (s.setSbLen n).xw = s.xw := rfl
@[simp] theorem setSbLen_xa (n : BitVec 16) : (s.setSbLen n).xa = s.xa := rfl
@[simp] theorem setSbLen_xj (n : BitVec 16) : (s.setSbLen n).xj = s.xj := rfl
@[simp] theorem setSbLen_params (n : BitVec 16) : (s.setSbLen n).params = s.params := rfl
@[simp] theorem setSbLen_pending (n : BitVec 16) : (s.setSbLen n).pending = s.pending := rfl
@[simp] theorem setSbLen_responses (n : BitVec 16) : (s.setSbLen n).responses = s.responses := rfl
theorem setSbLen_eq (n : BitVec 16) : s.setSbLen n = { s with sbLen := n } := rfl

@[simp] theorem setSb_lcgS (i : Fin 4) (v : Word) : (s.setSb i v).lcgS = s.lcgS := rfl
@[simp] theorem setSb_pcgS (i : Fin 4) (v : Word) : (s.setSb i v).pcgS = s.pcgS := rfl
@[simp] theorem setSb_xs (i : Fin 4) (v : Word) : (s.setSb i v).xs = s.xs := rfl
@[simp] theorem setSb_bbsC (i : Fin 4) (v : Word) : (s.setSb i v).bbsC = s.bbsC := rfl
@[simp] theorem setSb_err (i : Fin 4) (v : Word) : (s.setSb i v).err = s.err := rfl
@[simp] theorem setSb_sbLen (i : Fin 4) (v : Word) : (s.setSb i v).sbLen = s.sbLen := rfl
@[simp] theorem setSb_sb (i : Fin 4) (v : Word) : (s.setSb i v).sb = quadSet s.sb i v := rfl
@[simp] theorem setSb_res (i : Fin 4) (v : Word) : (s.setSb i v).res = s.res := rfl
@[simp] theorem setSb_rbLen (i : Fin 4) (v : Word) : (s.setSb i v).rbLen = s.rbLen := rfl
@[simp] theorem setSb_rb (i : Fin 4) (v : Word) : (s.setSb i v).rb = s.rb := rfl
@[simp] theorem setSb_xw (i : Fin 4) (v : Word) : (s.setSb i v).xw = s.xw := rfl
@[simp] theorem setSb_xa (i : Fin 4) (v : Word) : (s.setSb i v).xa = s.xa := rfl
@[simp] theorem setSb_xj (i : Fin 4) (v : Word) : (s.setSb i v).xj = s.xj := rfl
@[simp] theorem setSb_params (i : Fin 4) (v : Word) : (s.setSb i v).params = s.params := rfl
@[simp] theorem setSb_pending (i : Fin 4) (v : Word) : (s.setSb i v).pending = s.pending := rfl
@[simp] theorem setSb_responses (i : Fin 4) (v : Word) : (s.setSb i v).responses = s.responses := rfl
theorem setSb_eq (i : Fin 4) (v : Word) : s.setSb i v = { s with sb := quadSet s.sb i v } := rfl

@[simp] theorem setRb_lcgS (q : Quad) (n : BitVec 6) : (s.setRb q n).lcgS = s.lcgS := rfl
@[simp] theorem setRb_pcgS (q : Quad) (n : BitVec 6) : (s.setRb q n).pcgS = s.pcgS := rfl
@[simp] theorem setRb_xs (q : Quad) (n : BitVec 6) : (s.setRb q n).xs = s.xs := rfl
@[simp] theorem setRb_bbsC (q : Quad) (n : BitVec 6) : (s.setRb q n).bbsC = s.bbsC := rfl
@[simp] theorem setRb_err (q : Quad) (n : BitVec 6) : (s.setRb q n).err = s.err := rfl
@[simp] theorem setRb_sbLen (q : Quad) (n : BitVec 6) : (s.setRb q n).sbLen = s.sbLen := rfl
@[simp] theorem setRb_sb (q : Quad) (n : BitVec 6) : (s.setRb q n).sb = s.sb := rfl
@[simp] theorem setRb_res (q : Quad) (n : BitVec 6) : (s.setRb q n).res = s.res := rfl
@[simp] theorem setRb_rbLen (q : Quad) (n : BitVec 6) : (s.setRb q n).rbLen = n := rfl
@[simp] theorem setRb_rb (q : Quad) (n : BitVec 6) : (s.setRb q n).rb = q := rfl
@[simp] theorem setRb_xw (q : Quad) (n : BitVec 6) : (s.setRb q n).xw = s.xw := rfl
@[simp] theorem setRb_xa (q : Quad) (n : BitVec 6) : (s.setRb q n).xa = s.xa := rfl
@[simp] theorem setRb_xj (q : Quad) (n : BitVec 6) : (s.setRb q n).xj = s.xj := rfl
@[simp] theorem setRb_params (q : Quad) (n : BitVec 6) : (s.setRb q n).params = s.params := rfl
@[simp] theorem setRb_pending (q : Quad) (n : BitVec 6) : (s.setRb q n).pending = s.pending := rfl
@[simp] theorem setRb_responses (q : Quad) (n : BitVec 6) : (s.setRb q n).responses = s.responses := rfl
theorem setRb_eq (q : Quad) (n : BitVec 6) : s.setRb q n = { s with rb := q, rbLen := n } := rfl

@[simp] theorem setJumpUnit_lcgS (u : JumpUnit) : (s.setJumpUnit u).lcgS = s.lcgS := rfl
@[simp] theorem setJumpUnit_pcgS (u : JumpUnit) : (s.setJumpUnit u).pcgS = s.pcgS := rfl
@[simp] theorem setJumpUnit_xs (u : JumpUnit) : (s.setJumpUnit u).xs = s.xs := rfl
@[simp] theorem setJumpUnit_bbsC (u : JumpUnit) : (s.setJumpUnit u).bbsC = s.bbsC := rfl
@[simp] theorem setJumpUnit_err (u : JumpUnit) : (s.setJumpUnit u).err = s.err := rfl
@[simp] theorem setJumpUnit_sbLen (u : JumpUnit) : (s.setJumpUnit u).sbLen = s.sbLen := rfl
@[simp] theorem setJumpUnit_sb (u : JumpUnit) : (s.setJumpUnit u).sb = s.sb := rfl
@[simp] theorem setJumpUnit_res (u : JumpUnit) : (s.setJumpUnit u).res = s.res := rfl
@[simp] theorem setJumpUnit_rbLen (u : JumpUnit) : (s.setJumpUnit u).rbLen = s.rbLen := rfl
@[simp] theorem setJumpUnit_rb (u : JumpUnit) : (s.setJumpUnit u).rb = s.rb := rfl
@[simp] theorem setJumpUnit_xw (u : JumpUnit) : (s.setJumpUnit u).xw = u.xw := rfl
@[simp] theorem setJumpUnit_xa (u : JumpUnit) : (s.setJumpUnit u).xa = u.xa := rfl
@[simp] theorem setJumpUnit_xj (u : JumpUnit) : (s.setJumpUnit u).xj = u.xj := rfl
@[simp] theorem setJumpUnit_params (u : JumpUnit) : (s.setJumpUnit u).params = s.params := rfl
@[simp] theorem setJumpUnit_pending (u : JumpUnit) : (s.setJumpUnit u).pending = s.pending := rfl
@[simp] theorem setJumpUnit_responses (u : JumpUnit) : (s.setJumpUnit u).responses = s.responses := rfl
theorem setJumpUnit_eq (u : JumpUnit) : s.setJumpUnit u = { s with xw := u.xw, xa := u.xa, xj := u.xj } := rfl

@[simp] theorem setRegs_toRegs (r : Regs) : (s.setRegs r).toRegs = r := rfl
@[simp] theorem setRegs_params (r : Regs) : (s.setRegs r).params = s.params := rfl
@[simp] theorem setRegs_pending (r : Regs) : (s.setRegs r).pending = s.pending := rfl
@[simp] theorem setRegs_responses (r : Regs) : (s.setRegs r).responses = s.responses := rfl
theorem setRegs_eq (r : Regs) : s.setRegs r = { s with toRegs := r } := rfl

@[simp] theorem setPending_toRegs (l : List Input) : (s.setPending l).toRegs = s.toRegs := rfl
@[simp] theorem setPending_params (l : List Input) : (s.setPending l).params = s.params := rfl
@[simp] theorem setPending_pending (l : List Input) : (s.setPending l).pending = l := rfl
@[simp] theorem setPending_responses (l : List Input) : (s.setPending l).responses = s.responses := rfl
theorem setPending_eq (l : List Input) : s.setPending l = { s with pending := l } := rfl

@[simp] theorem respond_toRegs (r : Response) : (s.respond r).toRegs = s.toRegs := rfl
@[simp] theorem respond_params (r : Response) : (s.respond r).params = s.params := rfl
@[simp] theorem respond_pending (r : Response) : (s.respond r).pending = s.pending := rfl
@[simp] theorem respond_responses (r : Response) : (s.respond r).responses = s.responses ++ [r] := rfl
theorem respond_eq (r : Response) : s.respond r = { s with responses := s.responses ++ [r] } := rfl

end Sys2Proof.Machine
end

