-- ==== Sys2Proof/Laws/Ops.lean ====
section
/-! SUPPORT. One lemma for each shared operation that says everything it can do, and from them what a command leaves alone and what
a step can be. -/

namespace Sys2Proof.Machine

/-! ### The length check and the result buffer -/

theorem tooShort_iff {n : Nat} {s : State} : tooShort n s = true ↔ s.sbLen.toNat < n :=
  decide_eq_true_iff

theorem requireLen_short {n : Nat} {s done : State} (h : s.sbLen.toNat < n) :
    requireLen n s done = .next (s.setErr .invalidLength) := by
  simp [requireLen, tooShort_iff.mpr h, raise]

theorem requireLen_enough {n : Nat} {s done : State} (h : n ≤ s.sbLen.toNat) :
    requireLen n s done = .next (done.setErr .ok) := by
  have : tooShort n s = false := decide_eq_false (Nat.not_lt.mpr h)
  simp [requireLen, this, complete]

/-- Everything `RequireLen` and the rest of a command can do. -/
theorem requireLen_cases {n : Nat} {s done t : State} (h : requireLen n s done = .next t) :
    (s.sbLen.toNat < n ∧ t = s.setErr .invalidLength) ∨ (n ≤ s.sbLen.toNat ∧ t = done.setErr .ok) := by
  rcases Nat.lt_or_ge s.sbLen.toNat n with hn | hn
  · rw [requireLen_short hn] at h
    exact .inl ⟨hn, by cases h; rfl⟩
  · rw [requireLen_enough hn] at h
    exact .inr ⟨hn, by cases h; rfl⟩

theorem complete_next {s t : State} (h : complete s = .next t) : t = s.setErr .ok := by
  cases h; rfl

/-- The four words of the operand are the seed buffer itself (40_seed_state.md R96). -/
@[simp] theorem seedQuad_eq (s : State) : seedQuad s = s.sb := rfl

@[simp] theorem seedWord_zero (s : State) : seedWord s 0 = s.sb.w0 := rfl

/-! ### The window -/

/-- Everything `windowOffset` can answer: the offset of an access that meets the three conditions of 20_memory.md R53. -/
theorem windowOffset_some {p : Params} {addr size off : Nat} :
    windowOffset p addr size = some off ↔ size = 8 ∧ addr = p.coreBase + off ∧ off % 8 = 0 ∧ off ≤ 0xF8 := by
  unfold windowOffset
  split
  · simp only [Option.some.injEq]; omega
  · constructor
    · intro h; cases h
    · intro h; omega

theorem windowOffset_at {p : Params} {off : Nat} (h8 : off % 8 = 0) (hF : off ≤ 0xF8) :
    windowOffset p (p.coreBase + off) 8 = some off :=
  windowOffset_some.mpr ⟨rfl, rfl, h8, hF⟩

/-- An access has an offset exactly where it is well formed. -/
theorem windowOffset_isSome (p : Params) (a : Access) : (windowOffset p a.addr a.size).isSome = a.wf p := by
  rw [Bool.eq_iff_iff, Option.isSome_iff_exists]
  simp only [windowOffset_some, Access.wf, Access.wide, Access.aligned, Access.inWindow, Bool.and_eq_true, beq_iff_eq,
    decide_eq_true_eq]
  constructor
  · rintro ⟨off, h1, h2, h3, h4⟩; omega
  · rintro ⟨⟨h1, h2⟩, h3, h4⟩; exact ⟨a.addr - p.coreBase, by omega, by omega, by omega, by omega⟩

theorem regAt_regOffset (r : Reg) : regAt (regOffset r) = some r := by
  cases r with
  | sb i => fin_cases i <;> rfl
  | rb i => fin_cases i <;> rfl
  | _ => rfl

/-- A write of a register other than `CMD` reaches only `SBLEN` and `SB`. -/
theorem writeReg_frame (s : State) (r : Reg) (v : Word) :
    writeReg s r v = { s with sbLen := (writeReg s r v).sbLen, sb := (writeReg s r v).sb } := by
  cases r <;> rfl

/-! ### Commands and steps -/

/-- What no command changes: the model's own fields and the seed buffer (40_seed_state.md R92). -/
abbrev SameInputs (s t : State) : Prop :=
  t.params = s.params ∧ t.pending = s.pending ∧ t.responses = s.responses ∧ t.sb = s.sb ∧ t.sbLen = s.sbLen

theorem complete_inputs {s done : State} (h : SameInputs s done) : ∃ t, complete done = .next t ∧ SameInputs s t :=
  ⟨_, rfl, h⟩

theorem requireLen_inputs {n : Nat} {s done : State} (h : SameInputs s done) :
    ∃ t, requireLen n s done = .next t ∧ SameInputs s t := by
  rcases Nat.lt_or_ge s.sbLen.toNat n with hn | hn
  · exact ⟨_, requireLen_short hn, rfl, rfl, rfl, rfl, rfl⟩
  · exact ⟨_, requireLen_enough hn, h⟩

/-- A command answers a next state and leaves the model's own fields and the seed buffer alone (40_seed_state.md R92). -/
theorem exec_inputs (i : Instr) (s : State) : ∃ t, exec i s = .next t ∧ SameInputs s t := by
  cases i <;> simp only [exec]
  case lcgSeed => exact requireLen_inputs (by simp [SameInputs])
  case lcgSetst => exact requireLen_inputs (by simp [SameInputs])
  case pcgSeed => exact requireLen_inputs (by simp [SameInputs])
  case pcgSetst => exact requireLen_inputs (by simp [SameInputs])
  case xosSeed => exact requireLen_inputs (by simp [SameInputs])
  case xosSetst => exact requireLen_inputs (by simp [SameInputs])
  all_goals exact complete_inputs (by simp [SameInputs, putWord, putQuad])

/-- Everything a step can do, by the oldest pending input. -/
theorem step_cases (s : State) :
    (s.pending = [] ∧ step s = .next s) ∨
      ∃ e rest, s.pending = e :: rest ∧ step s = perform e (s.setPending rest) := by
  unfold step
  split
  · exact .inl ⟨‹_›, rfl⟩
  · exact .inr ⟨_, _, ‹_›, rfl⟩

/-- Everything a well-formed read can do. -/
theorem readAccess_cases (off : Nat) (s : State) :
    (regAt off = some .status ∧ s.err = .reserved ∧ readAccess off s = .fault .reservedStatus) ∨
      (¬ (regAt off = some .status ∧ s.err = .reserved) ∧ readAccess off s = .next (s.respond (.data (readWindow s off)))) := by
  unfold readAccess
  split
  · exact .inl ⟨And.left ‹_›, And.right ‹_›, rfl⟩
  · exact .inr ⟨‹_›, rfl⟩

/-- Everything a host access can do. -/
theorem performAccess_cases (a : Access) (s : State) :
    (a.wf s.params = false ∧ performAccess a s = .fault .busError) ∨
      ∃ off, windowOffset s.params a.addr a.size = some off ∧
        ((∃ addr size, a = .read addr size ∧ performAccess a s = readAccess off s) ∨
          ∃ addr size v, a = .write addr size v ∧ performAccess a s = writeAccess off v (s.respond .done)) := by
  unfold performAccess
  cases h : windowOffset s.params a.addr a.size with
  | none => exact .inl ⟨by rw [← windowOffset_isSome, h]; rfl, rfl⟩
  | some off =>
    refine .inr ⟨off, rfl, ?_⟩
    cases a with
    | read addr size => exact .inl ⟨addr, size, rfl, rfl⟩
    | write addr size v => exact .inr ⟨addr, size, v, rfl, rfl⟩

end Sys2Proof.Machine
end

