-- ==== Sys2Proof/Laws/Engines.lean ====
section
/-! SUPPORT. What the engines' own functions compute: the multiplier-adder, the Xoshiro step and its loop, and the squaring engine
with its filter. -/

namespace Sys2Proof.Machine

/-- The multiplier-adder in the spec's order (41_lcg64.md R110). -/
theorem lcgAdvance_eq (s : Word) : lcgAdvance s = s * Config.lcgMul + Config.lcgInc := by
  rw [lcgAdvance, BitVec.add_comm, BitVec.mul_comm]

/-! ### Xoshiro -/

/-- The array after a step, in the words on entry (43_xoshiro.md R151). -/
theorem xosStep_array (w : Quad) :
    (xosStep w).2 = ⟨w.w0 ^^^ (w.w3 ^^^ w.w1), w.w1 ^^^ (w.w2 ^^^ w.w0), (w.w2 ^^^ w.w0) ^^^ (w.w1 <<< 17),
      rotl64 (w.w3 ^^^ w.w1) 45⟩ := rfl

/-- The output of a step (43_xoshiro.md R151). -/
theorem xosStep_output (w : Quad) : (xosStep w).1 = rotl64 (w.w1 * 5) 7 * 9 := rfl

theorem jumpPasses_zero (poly : Quad) (u : JumpUnit) : jumpPasses poly 0 u = u := rfl

theorem jumpPasses_succ (poly : Quad) (n : Nat) (u : JumpUnit) :
    jumpPasses poly (n + 1) u = jumpPass poly n (jumpPasses poly n u) := rfl

/-- The working copy after `n` passes is `n` steps on, whatever the polynomial (43_xoshiro.md R155). -/
theorem jumpPasses_xw (poly : Quad) (n : Nat) (u : JumpUnit) :
    (jumpPasses poly n u).xw = (fun w => (xosStep w).2)^[n] u.xw := by
  induction n with
  | zero => rfl
  | succ n ih => rw [jumpPasses_succ, Function.iterate_succ_apply', ← ih]; rfl

/-- One more pass adds the working copy where the polynomial has a 1 (43_xoshiro.md R155). -/
theorem jumpPasses_xa_succ (poly : Quad) (n : Nat) (u : JumpUnit) :
    (jumpPasses poly (n + 1) u).xa =
      if polyBit poly n then quadXor (jumpPasses poly n u).xa (jumpPasses poly n u).xw else (jumpPasses poly n u).xa := rfl

/-- What the loop leaves in the hidden registers (43_xoshiro.md R155). -/
theorem xorJump_eq (poly start : Quad) (xj : BitVec 9) :
    xorJump poly start xj =
      ⟨(fun w => (xosStep w).2)^[256] start, (jumpPasses poly 256 ⟨start, Quad.zero, xj⟩).xa, 256⟩ := by
  rw [xorJump, jumpPasses_xw]

/-! ### Blum Blum Shub -/

/-- A square is in `[0, m)` (44_bbs.md R182). -/
theorem bbsSquare_range (c : Int) : 0 ≤ bbsSquare c ∧ bbsSquare c ≤ Config.bbsR := by
  have h0 : (0 : Int) < Config.bbsM := by decide
  have h1 := Int.emod_nonneg (c * c) (ne_of_gt h0)
  have h2 := Int.emod_lt_of_pos (c * c) h0
  have h3 : Config.bbsM = Config.bbsR + 1 := by decide
  unfold bbsSquare
  omega

/-- The word that `BBS.GETST` puts out (44_bbs.md R184) is the same for an integer and for the one `2^64` below it. With signed seeds
both can stand at rest (R186), so no function of the word gives both back: R187 cannot hold of both (log 22). -/
theorem no_load_restores_both (load : Word → Int) (c : Int) :
    ¬ (load (BitVec.ofInt 64 c) = c ∧ load (BitVec.ofInt 64 (c - 2 ^ 64)) = c - 2 ^ 64) := by
  have h : BitVec.ofInt 64 (c - 2 ^ 64) = BitVec.ofInt 64 c := by
    apply BitVec.eq_of_toNat_eq
    simp only [BitVec.toNat_ofInt]
    omega
  rw [h]
  omega

theorem bbsSquare_bound : bbsSquare Config.bbsR = 1 := by decide

end Sys2Proof.Machine
end

