-- ==== Sys2Proof/Laws/PerInstr.lean ====
section
/-! SUPPORT. The per-instruction family `OpcodeCell` (30_encoding.md R75): the cell a command is encoded in is a legal cell of the
map, and that cell is the command's. -/

namespace Sys2Proof.Laws.OpcodeCell

/-- The command's cell is legal and decodes to the command. -/
def Statement (i : Instr) : Prop := i.cell.legal = true ∧ instrOf i.cell = some i

theorem lcgSeed : Statement .lcgSeed := ⟨rfl, rfl⟩
theorem lcgSetst : Statement .lcgSetst := ⟨rfl, rfl⟩
theorem lcgGetst : Statement .lcgGetst := ⟨rfl, rfl⟩
theorem lcgGen32 : Statement .lcgGen32 := ⟨rfl, rfl⟩
theorem lcgGen64 : Statement .lcgGen64 := ⟨rfl, rfl⟩
theorem pcgSeed : Statement .pcgSeed := ⟨rfl, rfl⟩
theorem pcgSetst : Statement .pcgSetst := ⟨rfl, rfl⟩
theorem pcgGetst : Statement .pcgGetst := ⟨rfl, rfl⟩
theorem pcgGen32 : Statement .pcgGen32 := ⟨rfl, rfl⟩
theorem pcgGen64 : Statement .pcgGen64 := ⟨rfl, rfl⟩
theorem xosSeed : Statement .xosSeed := ⟨rfl, rfl⟩
theorem xosSetst : Statement .xosSetst := ⟨rfl, rfl⟩
theorem xosGetst : Statement .xosGetst := ⟨rfl, rfl⟩
theorem xosGen32 : Statement .xosGen32 := ⟨rfl, rfl⟩
theorem xosGen64 : Statement .xosGen64 := ⟨rfl, rfl⟩
theorem xosJump : Statement .xosJump := ⟨rfl, rfl⟩
theorem xosLjump : Statement .xosLjump := ⟨rfl, rfl⟩
theorem xosSplit : Statement .xosSplit := ⟨rfl, rfl⟩
theorem bbsSeed : Statement .bbsSeed := ⟨rfl, rfl⟩
theorem bbsSetst : Statement .bbsSetst := ⟨rfl, rfl⟩
theorem bbsGetst : Statement .bbsGetst := ⟨rfl, rfl⟩
theorem bbsNext : Statement .bbsNext := ⟨rfl, rfl⟩

end Sys2Proof.Laws.OpcodeCell
end

