-- ==== Sys2Proof/Tests/Slice0.lean ====
section
/-! SUPPORT. The model's own tests: the well-formedness smoke tests, the decoding of written-out words, at most two small tests for each
command, and a witness for every statement that has hypotheses. Expected values are the vectors of 95_test_vectors.md, named in
each docstring, or hand calculations from the rule named there. -/

namespace Sys2Proof.Tests

open Sys2Proof.Machine

/-! ### Helpers -/

/-- A small state: the reset state of the zero draw, with default parameters. -/
def base : State := State.resetWith Params.default ⟨0, 0, Quad.zero, 0⟩

/-- The small state with a seed buffer and a length. -/
def seeded (sb : Quad) (n : BitVec 16) : State := { base with sb := sb, sbLen := n }

/-- The small state with one host access pending. -/
def given (a : Access) : State := base.setPending [.access a]

/-- What holds of the state after a result that is a next state. -/
def after (r : Result) (f : State → Bool) : Bool :=
  match r with
  | .next t => f t
  | .fault _ => false
  | .refused _ => false

/-- The reason a word is rejected. -/
def rejectedAs (v : Word) (why : Illegal) : Bool :=
  match decode v with
  | .ok _ => false
  | .error w => w == why

/-- The command a word decodes to. -/
def decodesTo (v : Word) (i : Instr) : Bool :=
  match decode v with
  | .ok j => j == i
  | .error _ => false

/-- The start state of vector V-X5. -/
def startX5 : Quad := ⟨0x0123456789ABCDEF, 0xFEDCBA9876543210, 0x0F0F0F0F0F0F0F0F, 0xF0F0F0F0F0F0F0F0⟩

/-! ### Well-formedness refuses each ill-formed term (30_encoding.md R75, 20_memory.md R50 and R53) -/

theorem test_wf_lcg_has_no_jump : Cell.legal ⟨.lcg, .jump⟩ = false := by decide
theorem test_wf_lcg_has_no_ljump : Cell.legal ⟨.lcg, .ljump⟩ = false := by decide
theorem test_wf_pcg_has_no_split : Cell.legal ⟨.pcg, .split⟩ = false := by decide
theorem test_wf_bbs_has_no_gen32 : Cell.legal ⟨.bbs, .gen32⟩ = false := by decide
theorem test_wf_xos_has_jump : Cell.legal ⟨.xos, .jump⟩ = true := by decide
theorem test_wf_base_not_aligned : Params.wf { Params.default with coreBase := 8 } = false := by decide
theorem test_wf_access_four_bytes : Access.wf Params.default (.read 0 4) = false := by decide
theorem test_wf_access_not_aligned : Access.wf Params.default (.read 4 8) = false := by decide
theorem test_wf_access_above_window : Access.wf Params.default (.write 0x100 8 0) = false := by decide
theorem test_wf_access_below_window : Access.wf { Params.default with coreBase := 0x100 } (.read 0xF8 8) = false := by decide
theorem test_wf_access_last_register : Access.wf Params.default (.write 0xF8 8 0) = true := by decide
theorem test_wf_input_ill_formed : Input.wf Params.default (.access (.read 1 8)) = false := by decide
theorem test_wf_input_reset_during : Input.wf Params.default (.resetDuring 0x05 ⟨0, 0, Quad.zero, 0⟩ JumpUnit.zero) = false := by
  decide
theorem test_wf_input_power_reserved : Input.wf Params.default (.power { base.toRegs with err := .reserved }) = false := by decide

/-! ### Decoding (30_encoding.md section 2): `v[63:8]` zero, then `ENG` in bits 7:4 and `FN` in bits 3:0 -/

theorem test_decode_lcg : decodesTo 0x01 .lcgSeed && decodesTo 0x02 .lcgSetst && decodesTo 0x03 .lcgGetst &&
    decodesTo 0x04 .lcgGen32 && decodesTo 0x05 .lcgGen64 = true := by decide
theorem test_decode_pcg : decodesTo 0x11 .pcgSeed && decodesTo 0x12 .pcgSetst && decodesTo 0x13 .pcgGetst &&
    decodesTo 0x14 .pcgGen32 && decodesTo 0x15 .pcgGen64 = true := by decide
theorem test_decode_xos : decodesTo 0x21 .xosSeed && decodesTo 0x22 .xosSetst && decodesTo 0x23 .xosGetst &&
    decodesTo 0x24 .xosGen32 && decodesTo 0x25 .xosGen64 && decodesTo 0x26 .xosJump && decodesTo 0x27 .xosLjump &&
    decodesTo 0x28 .xosSplit = true := by decide
theorem test_decode_bbs : decodesTo 0x31 .bbsSeed && decodesTo 0x32 .bbsSetst && decodesTo 0x33 .bbsGetst &&
    decodesTo 0x35 .bbsNext = true := by decide

/-- One word of each family, bit by bit: 56 zeros, four bits of `ENG`, four bits of `FN`. -/
theorem test_decode_bit_by_bit :
    decodesTo (0#56 ++ 0b0000#4 ++ 0b0101#4) .lcgGen64 && decodesTo (0#56 ++ 0b0001#4 ++ 0b0001#4) .pcgSeed &&
    decodesTo (0#56 ++ 0b0010#4 ++ 0b1000#4) .xosSplit && decodesTo (0#56 ++ 0b0011#4 ++ 0b0101#4) .bbsNext = true := by
  decide

theorem test_decode_rejects_mbz : rejectedAs 0x105 .mustBeZero && rejectedAs 0x8000000000000001 .mustBeZero = true := by decide
theorem test_decode_rejects_engine : rejectedAs 0x41 .reservedEngine && rejectedAs 0xF1 .reservedEngine = true := by decide
theorem test_decode_rejects_function :
    rejectedAs 0x00 .reservedFunction && rejectedAs 0x29 .reservedFunction && rejectedAs 0x0F .reservedFunction = true := by
  decide
theorem test_decode_rejects_cell :
    rejectedAs 0x06 .emptyCell && rejectedAs 0x16 .emptyCell && rejectedAs 0x34 .emptyCell && rejectedAs 0x38 .emptyCell = true := by
  decide

theorem test_table_word : decodeTableWord 64 0x27 = some .xosLjump ∧ decodeTableWord 64 0x34 = none := by decide
theorem test_mnemonic_any_case : ofMnemonic "lcg.Seed" = some .lcgSeed := by decide
theorem test_mnemonic_next : ofMnemonic "BBS.NEXT" = some .bbsNext ∧ ofMnemonic "BBS.GEN64" = none := by decide

/-! ### The window, errors, reset -/

/-- Vectors V-BUS (R53): 4 bytes wide, not aligned, above the window. -/
theorem test_bus_errors : step (given (.read 0 4)) = .fault .busError ∧ step (given (.write 0x0C 8 1)) = .fault .busError ∧
    step (given (.read 0x100 8)) = .fault .busError := ⟨rfl, rfl, rfl⟩

/-- R51, R54: `CMD` and a reserved offset read 0. -/
theorem test_reads_zero : after (step (given (.read 0x00 8))) (fun t => t.responses == [.data 0]) &&
    after (step (given (.read 0x18 8))) (fun t => t.responses == [.data 0]) = true := by decide

/-- R28: `SBLEN` keeps 16 bits. -/
theorem test_sblen_keeps_16_bits : after (step (given (.write 0x10 8 0x12345))) (fun t => t.sbLen == 0x2345) = true := by decide

/-- R54: a write of a read-only register is ignored. -/
theorem test_write_of_res_ignored : after (step (given (.write 0x40 8 7))) (fun t => t.toRegs == base.toRegs) = true := by decide

/-- Program P5: an illegal word, then its `STATUS` reads 2. -/
theorem test_illegal_command : after (step (given (.write 0x00 8 0x06))) (fun t => readWindow t 0x08 == 2) = true := by decide

/-- Program P1's first words: a step after `withFetchWord` runs the command. -/
theorem test_step_runs_command : after (step (base.withFetchWord 64 0x05)) (fun t => t.res == 1442695040888963407) = true := by decide

/-- R230, R232, U15: a reset during a command is a fault of the host step, and leaves the reset's registers. -/
theorem test_reset_during_command :
    (match step (base.setPending [.resetDuring 0x05 ⟨1, 2, ⟨3, 4, 5, 6⟩, 7⟩ JumpUnit.zero]) with
      | .fault (.abandonedWrite t) => t.lcgS == 1 && t.xs.w3 == 6 && t.bbsC == 7 && t.res == 0 && t.responses == []
      | _ => false) = true := by decide

/-- U14, U5: a power event may leave code 3 in `STATUS`, and a read of it is a fault; the next command writes the code anew
(R200). -/
theorem test_reserved_status :
    after (step (base.setPending [.power { base.toRegs with err := .reserved }])) (fun t => t.err == .reserved) = true ∧
    step { given (.read 0x08 8) with err := .reserved } = .fault .reservedStatus ∧
    after (step { given (.write 0x00 8 0x03) with err := .reserved }) (fun t => t.err == .ok) = true := ⟨by decide, rfl, by decide⟩

/-! ### LCG64 -/

/-- V-L7's seed with `SBLEN = 9` (R95), and `SBLEN = 7` (program P5). -/
theorem test_lcg_seed : after (exec .lcgSeed (seeded ⟨0xDEADBEEF, 0, 0, 0⟩ 9)) (fun t => t.lcgS == 0xDEADBEEF && t.err == .ok) &&
    after (exec .lcgSeed (seeded ⟨0x1234, 0, 0, 0⟩ 7)) (fun t => t.lcgS == 0 && t.err == .invalidLength) = true := by decide

/-- V-RT1. -/
theorem test_lcg_setst : after (exec .lcgSetst (seeded ⟨0x0123456789ABCDEF, 0, 0, 0⟩ 8)) (fun t => t.lcgS == 0x0123456789ABCDEF) =
    true := by decide

/-- Section 2.1: `RB`, `RBLEN` and the byte sequence. -/
theorem test_lcg_getst : after (exec .lcgGetst { base with lcgS := 0x14057B7EF767814F, rb := ⟨9, 9, 9, 9⟩ })
    (fun t => t.rb == ⟨0x14057B7EF767814F, 0, 0, 0⟩ &&
      resultBytes t == [0x14, 0x05, 0x7B, 0x7E, 0xF7, 0x67, 0x81, 0x4F]) = true := by decide

/-- V-L5. -/
theorem test_lcg_gen32_low : after (exec .lcgGen32 base) (fun t => t.res == 0xF767814F && t.lcgS == 0x14057B7EF767814F) = true := by
  decide

/-- V-L6. -/
theorem test_lcg_gen32_high : after (exec .lcgGen32 { base with params := { Params.default with gen32HalfLcg := .high } })
    (fun t => t.res == 0x14057B7E && t.lcgS == 0x14057B7EF767814F) = true := by decide

/-- V-L3, V-L4. -/
theorem test_lcg_gen64 : after (exec .lcgGen64 { base with lcgS := 0xFFFFFFFFFFFFFFFF }) (fun t => t.res == 0xBBB38751AAD20222) &&
    after (exec .lcgGen64 { base with lcgS := 0x0123456789ABCDEF }) (fun t => t.res == 0x2CE32D2335DF4552) = true := by decide

/-! ### PCG-XSH-RR -/

/-- V-P8, V-P12: the warm-up, and `RES` not written (V-P15). -/
theorem test_pcg_seed : after (exec .pcgSeed { seeded ⟨0, 0, 0, 0⟩ 8 with res := 5 })
      (fun t => t.pcgS == 0x1A08EE1184BA6D32 && t.res == 5) &&
    after (exec .pcgSeed (seeded ⟨0xEBFA848108987EB1, 0, 0, 0⟩ 8)) (fun t => t.pcgS == 0x14057B7EF767814F) = true := by decide

/-- V-P16. -/
theorem test_pcg_setst : after (exec .pcgSetst (seeded ⟨0xF800000000000000, 0, 0, 0⟩ 8)) (fun t => t.pcgS == 0xF800000000000000) =
    true := by decide

/-- V-RT2. -/
theorem test_pcg_getst : after (exec .pcgGetst { base with pcgS := 0x66B61AE97F2099B4 })
    (fun t => t.rb == ⟨0x66B61AE97F2099B4, 0, 0, 0⟩ && t.rbLen == 8) = true := by decide

/-- V-P3, V-P6. -/
theorem test_pcg_gen32 : after (exec .pcgGen32 { base with pcgS := 0x0123456789ABCDEF })
      (fun t => t.res == 0x2468A5EB && t.pcgS == 0x2CE32D2335DF4552) &&
    after (exec .pcgGen32 { base with pcgS := 0xF800000000000000 }) (fun t => t.res == 0x000F8000) = true := by decide

/-- V-P13, V-P14. -/
theorem test_pcg_gen64 : after (exec .pcgGen64 { base with pcgS := 0x1A08EE1184BA6D32 })
      (fun t => t.res == 0xE823A24E7A7ECBD9 && t.pcgS == 0x66B61AE97F2099B4) &&
    after (exec .pcgGen64 base) (fun t => t.res == 0x602BF3FD && t.pcgS == 0x1A08EE1184BA6D32) = true := by decide

/-! ### Xoshiro256** -/

/-- R150 at the boundary lengths 32 and 31. -/
theorem test_xos_seed : after (exec .xosSeed (seeded ⟨1, 2, 3, 4⟩ 32)) (fun t => t.xs == ⟨1, 2, 3, 4⟩) &&
    after (exec .xosSeed (seeded ⟨1, 2, 3, 4⟩ 31)) (fun t => t.xs == Quad.zero && t.err == .invalidLength) = true := by decide

/-- V-RT3: a longer input. -/
theorem test_xos_setst : after (exec .xosSetst (seeded startX5 40)) (fun t => t.xs == startX5 && t.err == .ok) = true := by decide

/-- V-X19. -/
theorem test_xos_getst : after (exec .xosGetst { base with xs := ⟨1, 2, 3, 4⟩ })
    (fun t => t.rb == ⟨1, 2, 3, 4⟩ && t.rbLen == 32 && (resultBytes t).getD 15 0 == 2) = true := by decide

/-- V-X8. -/
theorem test_xos_gen32_low : after (exec .xosGen32 { base with xs := startX5 }) (fun t => t.res == 0x66666C65) = true := by decide

/-- V-X8. -/
theorem test_xos_gen32_high :
    after (exec .xosGen32 { base with xs := startX5, params := { Params.default with gen32HalfXos := .high } })
      (fun t => t.res == 0x66666666) = true := by decide

/-- V-X1, V-X5. -/
theorem test_xos_gen64 : after (exec .xosGen64 { base with xs := ⟨1, 2, 3, 4⟩ })
      (fun t => t.res == 0x2D00 && t.xs == ⟨7, 0, 0x40002, 0xC00000000000⟩) &&
    after (exec .xosGen64 { base with xs := startX5 })
      (fun t => t.res == 0x6666666666666C65 &&
        t.xs == ⟨0x0F0F0F0F0F0F0F0F, 0xF0F0F0F0F0F0F0F0, 0x7B1CA6C0E284C2E0, 0x985C01C5894D10D4⟩) = true := by decide

/-- V-X9. -/
theorem test_xos_jump : after (exec .xosJump { base with xs := ⟨1, 2, 3, 4⟩ })
    (fun t => t.xs == ⟨0x8C7A153956B5F3D1, 0x701F1A713401D85E, 0x6527F66A65469085, 0x8386B786C4408050⟩) = true := by
  decide +kernel

/-- V-X14. -/
theorem test_xos_ljump : after (exec .xosLjump { base with xs := startX5 })
    (fun t => t.xs == ⟨0x169594F57B85470F, 0x87A328E15F4B0750, 0x04390541C0AB2A51, 0x085DF7754B2E2F2A⟩) = true := by
  decide +kernel

/-- V-X12. -/
theorem test_xos_split : after (exec .xosSplit { base with xs := ⟨1, 2, 3, 4⟩ })
    (fun t => t.rb == ⟨0x8C7A153956B5F3D1, 0x701F1A713401D85E, 0x6527F66A65469085, 0x8386B786C4408050⟩ && t.rbLen == 32 &&
      t.xs == ⟨1, 2, 3, 4⟩ && t.xj == 256) = true := by
  decide +kernel

/-! ### Blum Blum Shub -/

/-- V-BBS14, V-BBS13: any length, and both readings of the seed word. -/
theorem test_bbs_seed : after (exec .bbsSeed (seeded ⟨0xFFFFFFFFFFFFFFFF, 0, 0, 0⟩ 0))
      (fun t => t.bbsC.toInt == 18446744073709551615 && t.err == .ok) &&
    after (exec .bbsSeed { seeded ⟨0xFFFFFFFFFFFFFFFF, 0, 0, 0⟩ 0 with params := { Params.default with bbsSeedSigned := true } })
      (fun t => t.bbsC.toInt == -1) = true := by decide

/-- Program P5's `BBS_C`. -/
theorem test_bbs_setst : after (exec .bbsSetst (seeded ⟨0x1234, 0, 0, 0⟩ 31)) (fun t => t.bbsC == 0x1234 && t.err == .ok) = true := by
  decide

/-- R183 with R180, by hand: the word V-BBS13's first `BBS.NEXT` leaves has bit 63 set, so a signed `BBS.SETST` of it is negative. -/
theorem test_bbs_setst_signed : after (exec .bbsSetst
      { seeded ⟨0xC000000000000001, 0, 0, 0⟩ 8 with params := { Params.default with bbsSeedSigned := true } })
    (fun t => t.bbsC.toInt == -0x3FFFFFFFFFFFFFFF) = true := by decide

/-- V-BBS15, and R184's two's complement of -1. -/
theorem test_bbs_getst : after (exec .bbsGetst { base with bbsC := 4 }) (fun t => t.rb == ⟨4, 0, 0, 0⟩ && t.rbLen == 8) &&
    after (exec .bbsGetst { base with bbsC := BitVec.ofInt 66 (-1) }) (fun t => t.rb.w0 == 0xFFFFFFFFFFFFFFFF) = true := by decide

/-- V-BBS7 and its rejection. -/
theorem test_bbs_next : after (exec .bbsNext { base with bbsC := 0x8000000000000000 }) (fun t => t.res == 0xC000000000000001) &&
    after (exec .bbsNext { base with bbsC := 0xFFFFFFFF00000001 }) (fun t => t.res == 1 && t.bbsC == 1) = true := by decide

/-- V-BBS13 with signed seeds: one `BBS.NEXT` after the seed `-2^63` leaves the integer `0xC000000000000001`, and a `BBS.SEED` of that
same word leaves the integer `2^64` below it. So both are states at rest, and `no_load_restores_both` is about them. -/
theorem test_bbs_signed_collision :
    after (exec .bbsNext { base with bbsC := BitVec.ofInt 66 (-(2 ^ 63)) })
      (fun t => t.bbsC.toInt == 0xC000000000000001 && t.res == 0xC000000000000001) &&
    after (exec .bbsSeed
      { seeded ⟨0xC000000000000001, 0, 0, 0⟩ 8 with params := { Params.default with bbsSeedSigned := true } })
      (fun t => t.bbsC.toInt == 0xC000000000000001 - 2 ^ 64) = true := by decide

/-! ### Witnesses: for each statement with hypotheses, a state and operands that meet them together -/

/-- Of `IllegalWordSetsErrTwoAndNothingElse`: the smallest illegal word, and one above the opcodes. -/
theorem witness_IllegalWord :
    (∃ (s : State) (v : Word) (rest : List Input), s.pending = .access (.write s.params.coreBase 8 v) :: rest ∧
      ∀ i, decode v ≠ .ok i) ∧
    ∃ (s : State) (v : Word) (rest : List Input), s.pending = .access (.write s.params.coreBase 8 v) :: rest ∧ v = 0x105 ∧
      ∀ i, decode v ≠ .ok i :=
  ⟨⟨given (.write 0 8 0), 0, [], rfl, fun i h => by cases i <;> cases h⟩,
    given (.write 0 8 0x105), 0x105, [], rfl, rfl, fun i h => by cases i <;> cases h⟩

/-- Of `StepRunsTheDecodedCommand`. -/
theorem witness_StepRuns :
    (∃ (s : State) (v : Word) (i : Instr) (rest : List Input), s.pending = .access (.write s.params.coreBase 8 v) :: rest ∧
      decode v = .ok i) ∧ ∃ (nbits w : Nat) (i : Instr), decodeTableWord nbits w = some i :=
  ⟨⟨given (.write 0 8 0x35), 0x35, .bbsNext, [], rfl, rfl⟩, 64, 0x35, .bbsNext, rfl⟩

/-- Of `BusErrorExactlyOnIllFormedAccess`: each condition of R53 broken alone, at its boundary. -/
theorem witness_BusError : ((∃ f, step (given (.read 0 7)) = .fault f) ∧ (∃ f, step (given (.read 0xF7 8)) = .fault f) ∧
    (∃ f, step (given (.read 0x100 8)) = .fault f)) ∧ (∃ f, step { given (.read 0xF8 8) with params :=
      { Params.default with coreBase := 0x100 } } = .fault f) ∧ ∃ t, step (given (.read 0xF8 8)) = .next t :=
  ⟨⟨⟨_, rfl⟩, ⟨_, rfl⟩, ⟨_, rfl⟩⟩, ⟨_, rfl⟩, _, rfl⟩

/-- Of `ErrorsAreCheckedInOrder`: each of the four cases, the last two at lengths 7 and 8. -/
theorem witness_ErrorsInOrder :
    (∃ (s : State) (a : Access) (rest : List Input), s.pending = .access a :: rest ∧ a.wf s.params = false) ∧
    (∃ (s : State) (v : Word) (why : Illegal), s.pending = [.access (.write s.params.coreBase 8 v)] ∧ decode v = .error why) ∧
    (∃ (s : State) (v : Word) (i : Instr), s.pending = [.access (.write s.params.coreBase 8 v)] ∧ decode v = .ok i ∧
      s.sbLen.toNat < minLen i) ∧
    ∃ (s : State) (v : Word) (i : Instr), s.pending = [.access (.write s.params.coreBase 8 v)] ∧ decode v = .ok i ∧
      minLen i ≤ s.sbLen.toNat :=
  ⟨⟨given (.read 4 8), .read 4 8, [], rfl, by decide⟩, ⟨given (.write 0 8 0x16), 0x16, .emptyCell, rfl, rfl⟩,
    ⟨{ given (.write 0 8 0x01) with sbLen := 7 }, 0x01, .lcgSeed, rfl, rfl, by decide⟩,
    { given (.write 0 8 0x01) with sbLen := 8 }, 0x01, .lcgSeed, rfl, rfl, by decide⟩

/-- Of `BusErrorExactlyOnIllFormedAccess` and `ReadAnswersTheRegisterAndChangesNone`: the two other faults. -/
theorem witness_OtherFaults :
    (∃ (s : State) (v : Word) (d : Entropy) (u : JumpUnit) (rest : List Input) (t : State),
      s.pending = .resetDuring v d u :: rest ∧ step s = .fault (.abandonedWrite t)) ∧
    ∃ (s : State) (rest : List Input), s.err = .reserved ∧ s.pending = .access (.read (s.params.coreBase + 0x08) 8) :: rest ∧
      step s = .fault .reservedStatus :=
  ⟨⟨base.setPending [.resetDuring 0x26 ⟨1, 2, Quad.zero, 3⟩ JumpUnit.zero], _, _, _, _, _, rfl, rfl⟩,
    { given (.read 0x08 8) with err := .reserved }, _, rfl, rfl, rfl⟩

/-- Of `ReadAnswersTheRegisterAndChangesNone`: the first, `STATUS`, a reserved and the last offset, with a code a command writes. -/
theorem witness_Read (off : Nat) (h : off = 0 ∨ off = 0x08 ∨ off = 0x18 ∨ off = 0x78 ∨ off = 0xF8) :
    ∃ (s : State) (rest : List Input), off % 8 = 0 ∧ off ≤ 0xF8 ∧ s.err ≠ .reserved ∧
      s.pending = .access (.read (s.params.coreBase + off) 8) :: rest := by
  exact ⟨base.setPending [.access (.read (base.params.coreBase + off) 8)], [], by omega, by omega, (by decide : base.err ≠ .reserved), rfl⟩

/-- Of `WriteStoresOnlyInTheSeedBuffer`: `SBLEN`, the four words, a read-only and the last offset. -/
theorem witness_Write (off : Nat) (h : off = 0x08 ∨ off = 0x10 ∨ off = 0x20 ∨ off = 0x38 ∨ off = 0xF8) :
    ∃ (s : State) (v : Word) (rest : List Input), off % 8 = 0 ∧ off ≤ 0xF8 ∧ off ≠ 0 ∧
      s.pending = .access (.write (s.params.coreBase + off) 8 v) :: rest := by
  exact ⟨base.setPending [.access (.write (base.params.coreBase + off) 8 0x10005)], 0x10005, [], by omega, by omega, by omega, rfl⟩

/-- Of `EngineStateIsPrivate`. -/
theorem witness_EngineStatePrivate : ∃ (s t : State) (a : Access) (rest : List Input), s.pending = .access a :: rest ∧
    (∀ v, a ≠ .write s.params.coreBase 8 v) ∧ step s = .next t :=
  ⟨given (.write 0x20 8 1), _, .write 0x20 8 1, [], rfl, fun _ h => absurd (Access.write.inj h).1 (by decide), rfl⟩

/-- Of `IdleStepHoldsTheState`. -/
theorem witness_Idle : ∃ s : State, s.pending = [] := ⟨State.reset, rfl⟩

/-- Of `SafeRunPerformsInputsInReceiveOrder`: two accesses and a reset. -/
theorem witness_Safe : ∃ s : State, Safe s ∧ s.pending.length = 3 :=
  ⟨base.setPending [.access (.write 0x10 8 8), .reset ⟨0, 0, Quad.zero, 0⟩ JumpUnit.zero, .access (.write 0 8 0x05)], by decide,
    rfl⟩

/-- Of the three statements about reset and power inputs. -/
theorem witness_ResetInputs :
    (∃ (s : State) (d : Entropy) (u : JumpUnit) (rest : List Input), s.pending = .reset d u :: rest) ∧
    (∃ (s : State) (v : Word) (d : Entropy) (u : JumpUnit) (rest : List Input), s.pending = .resetDuring v d u :: rest) ∧
    ∃ (s : State) (c : Regs) (d : Entropy) (u : JumpUnit) (rest : List Input), s.params.wf = true ∧
      (∀ e ∈ rest, e.keepsPower = true) ∧ s.pending = .power c :: .reset d u :: rest :=
  ⟨⟨base.setPending [.reset ⟨1, 2, Quad.zero, 3⟩ JumpUnit.zero], _, _, _, rfl⟩,
    ⟨base.setPending [.resetDuring 0x26 ⟨1, 2, Quad.zero, 3⟩ JumpUnit.zero], _, _, _, _, rfl⟩,
    base.setPending [.power base.toRegs, .reset ⟨1, 2, Quad.zero, 3⟩ JumpUnit.zero, .access (.read 0 8)], _, _, _, _, by decide,
    by decide, rfl⟩

/-- Of `InvariantHoldsAtReset`: a window elsewhere than at 0. -/
theorem witness_InvariantAtReset : ∃ p : Params, p.wf = true ∧ p.coreBase = 0x100 :=
  ⟨{ Params.default with coreBase := 0x100 }, by decide, rfl⟩

/-- Of `EveryStepKeepsTheInvariant`: a step of a command that writes `BBS_C`. -/
theorem witness_EveryStep : ∃ s t : State, Inv s ∧ step s = .next t :=
  ⟨{ given (.write 0 8 0x35) with bbsC := 0xFFFFFFFFFFFFFFFF, rbLen := 8, rb := ⟨1, 0, 0, 0⟩ }, _, by decide, rfl⟩

/-- Of `ShortInputIsTheOnlyErrorOfALegalCommand`: 7 and 8 bytes, 31 and 32 bytes. -/
theorem witness_ShortInput : (seeded Quad.zero 7).sbLen.toNat < minLen .pcgSetst ∧ minLen .pcgSetst ≤ (seeded Quad.zero 8).sbLen.toNat ∧
    (seeded Quad.zero 31).sbLen.toNat < minLen .xosSeed ∧ minLen .xosSeed ≤ (seeded Quad.zero 32).sbLen.toNat ∧
    minLen .bbsSeed ≤ (seeded Quad.zero 0).sbLen.toNat := by decide

/-- Of `CommandsWriteOnlyTheirRow`: for each row, a command outside it. -/
theorem witness_CommandsWriteOnlyTheirRow :
    Instr.lcgGetst ∉ [Instr.lcgSeed, .lcgSetst, .lcgGen32, .lcgGen64] ∧
    Instr.pcgGetst ∉ [Instr.pcgSeed, .pcgSetst, .pcgGen32, .pcgGen64] ∧
    Instr.xosSplit ∉ [Instr.xosSeed, .xosSetst, .xosGen32, .xosGen64, .xosJump, .xosLjump] ∧
    Instr.bbsGetst ∉ [Instr.bbsSeed, .bbsSetst, .bbsNext] ∧
    Instr.pcgSeed ∉ [Instr.lcgGen32, .lcgGen64, .pcgGen32, .pcgGen64, .xosGen32, .xosGen64, .bbsNext] ∧
    Instr.bbsNext ∉ [Instr.lcgGetst, .pcgGetst, .xosGetst, .bbsGetst, .xosSplit] ∧
    Instr.xosGen64 ∉ [Instr.xosJump, .xosLjump, .xosSplit] := by decide

/-- Of `SameEnginesGiveTheSameResults`: two machines that differ in what is left out of the comparison. -/
theorem witness_SameEngines : ∃ s t : State, t.params = s.params ∧ SameEngines s t ∧ SameSeedBuffer s t ∧ SameResults s t ∧ s ≠ t :=
  ⟨base, { base with err := .illegalCommand, xj := 5 }, by decide⟩

/-- Of `HiddenRegistersAreNotObservable`: a step that goes on and one that stops. -/
theorem witness_Hidden : (∃ s t : State, step s = .next t) ∧ ∃ (s : State) (f : Fault), step s = .fault f :=
  ⟨⟨given (.write 0 8 0x05), _, rfl⟩, given (.read 0 4), _, rfl⟩

/-- Of `SeedEqualsSetstExceptOnPcg`, `LcgSeedAndSetstLoadTheFirstWord`, `PcgSeedAddsTheIncrementAndWarmsUp`, `PcgSetstLoadsDirectly` and
`XosSeedAndSetstLoadFourWords`: both sides of each length check. -/
theorem witness_Lengths : 8 ≤ (seeded Quad.zero 8).sbLen.toNat ∧ (seeded Quad.zero 7).sbLen.toNat < 8 ∧
    32 ≤ (seeded Quad.zero 32).sbLen.toNat ∧ (seeded Quad.zero 31).sbLen.toNat < 32 := by decide

/-- Of `StateRoundTrip`. -/
theorem witness_StateRoundTrip : (seeded startX5 8).sbLen = 8 ∧ (seeded startX5 32).sbLen = 32 := by decide

/-- Of `EngineStepsAreBounded`: two states in which the same command passes its length check, and one in which it does not. -/
theorem witness_EngineSteps : (seeded Quad.zero 7).sbLen.toNat < 8 ∧ Instr.pcgSeed ≠ .bbsNext ∧ minLen .pcgSeed ≤ (seeded Quad.zero 8).sbLen.toNat ∧
    minLen .pcgSeed ≤ (seeded startX5 65535).sbLen.toNat := by decide

/-- Of `ByteSequencesAreBigEndian`: the first and the last byte. -/
theorem witness_ByteSequences : ∃ s : State, 0 < s.rbLen.toNat ∧ 31 < 32 ∧ 31 < s.rbLen.toNat :=
  ⟨{ base with rb := startX5, rbLen := 32 }, by decide⟩

/-- Of `SeedbLoadsTheByteSequence`: nine bytes, a zero-padded second word. -/
theorem witness_Seedb : ∃ (s : State) (bytes : List Byte) (got : Reg → Word) (k : Nat),
    s.pending = (expandStmt s.params got (.seedb bytes)).map .access ∧ k < 32 ∧ k < bytes.length ∧ 8 ≤ k :=
  ⟨base.setPending ((expandStmt Params.default (fun _ => 0) (.seedb [1, 2, 3, 4, 5, 6, 7, 8, 9])).map .access),
    [1, 2, 3, 4, 5, 6, 7, 8, 9], fun _ => 0, 8, rfl, by decide, by decide, by decide⟩

/-- Of `CopystateCopiesTheResultBuffer`. -/
theorem witness_Copystate : ∃ s : State, s.pending = (expandStmt s.params (readReg s) .copystate).map .access ∧ s.rbLen = 32 :=
  ⟨{ base with
      rb := startX5
      rbLen := 32
      pending := (expandStmt Params.default (readReg { base with rb := startX5, rbLen := 32 }) .copystate).map .access },
    rfl, rfl⟩

/-- Of `InstancesShareNothing`: one instance goes on, another stops. -/
theorem witness_Instances :
    (∃ (k : Nat) (sys : List State) (s s' : State), sys[k]? = some s ∧ step s = .next s') ∧
    ∃ (k : Nat) (sys : List State) (s : State) (f : Fault), sys[k]? = some s ∧ step s = .fault f :=
  ⟨⟨0, [given (.write 0 8 0x05), given (.read 0 4)], _, _, rfl, rfl⟩,
    1, [given (.write 0 8 0x05), given (.read 0 4)], _, _, rfl, rfl⟩

/-- Of `PcgSeedIsABijection`: the seed word of vector V-P12 and its target. -/
theorem witness_PcgBijection : ∃ (s : State) (w' : Word) (t : State), 8 ≤ s.sbLen.toNat ∧
    exec .pcgSeed { s with sb := { s.sb with w0 := w' } } = .next t ∧ t.pcgS = 0x14057B7EF767814F :=
  ⟨seeded Quad.zero 8, 0xEBFA848108987EB1, _, by decide, rfl, by decide⟩

/-- Of `XosJumpsAdvanceTheStatedDistances` and `XosLongJumpIsNotThreeJumps`. -/
theorem witness_XosJumps : ∃ s : State, s.xs = ⟨1, 2, 3, 4⟩ ∧ s.params.jumpPoly = Params.default.jumpPoly ∧
    s.params.longJumpPoly = Params.default.longJumpPoly := ⟨{ base with xs := ⟨1, 2, 3, 4⟩ }, rfl, rfl, rfl⟩

/-- Of `XosZeroIsAFixedPointReachedFromNoOther`. -/
theorem witness_XosZero : (∃ s : State, s.xs = ⟨0, 0, 0, 0⟩) ∧
    ∃ s t : State, exec .xosGen64 s = .next t ∧ t.xs = ⟨0, 0, 0, 0⟩ :=
  ⟨⟨base, rfl⟩, base, _, rfl, by decide⟩

/-- Of `BbsRejectionLoopStopsAfterTwo`: a rejected square (V-BBS5) and one that is not (V-BBS2). -/
theorem witness_BbsLoop : bbsSquarings 0x100000000 = 2 ∧ bbsSquarings 1 = 1 := by decide

/-- Of `BbsRejectsExactlyTheFourRoots` and `BbsHasExactlyFourFixedPoints`: both ends of the range. -/
theorem witness_BbsRange : (0 ≤ (0 : BitVec 66).toInt ∧ (0 : BitVec 66).toInt < 2 ^ 64) ∧
    0 ≤ (0xFFFFFFFFFFFFFFFF : BitVec 66).toInt ∧ (0xFFFFFFFFFFFFFFFF : BitVec 66).toInt < 2 ^ 64 := by decide

/-- Of `BbsRoundTripAtRest`: an unsigned state, a signed one below `2^63`, and the first signed one from there. -/
theorem witness_BbsRoundTrip :
    (BbsAtRest Params.default 0xFFFFFFFFFFFFFFFF ∧ Params.default.bbsSeedSigned = false) ∧
    (BbsAtRest { Params.default with bbsSeedSigned := true } (BitVec.ofInt 66 (-(2 ^ 63))) ∧
      (BitVec.ofInt 66 (-(2 ^ 63))).toInt < 2 ^ 63) ∧
    BbsAtRest { Params.default with bbsSeedSigned := true } 0x8000000000000000 ∧
      2 ^ 63 ≤ (0x8000000000000000 : BitVec 66).toInt := by decide

end Sys2Proof.Tests
end

section
/-! SUPPORT. The engine states are private (10_state.md R24): what a write of the window can do, and that a read of a register, a
store and every host access but a write of `CMD` pass the four engine states by. -/

namespace Sys2Proof.Machine

/-! ### Steps and writes, by cases -/

/-- A step performs the oldest pending input. -/
theorem step_of_pending {s : State} {e : Input} {rest : List Input} (h : s.pending = e :: rest) :
    step s = perform e (s.setPending rest) := by
  unfold step
  rw [h]

/-- `CMD` stands at offset 0 and nowhere else (20_memory.md R52). -/
theorem regAt_eq_cmd_iff {off : Nat} : regAt off = some .cmd ↔ off = 0 := by
  constructor
  · intro h
    unfold regAt at h
    split at h
    case h_1 => rfl
    all_goals cases h
  · rintro rfl
    rfl

/-- Everything a well-formed write can do: at offset 0 it runs a command, elsewhere it stores or is ignored (20_memory.md R56). -/
theorem writeAccess_cases (off : Nat) (v : Word) (s : State) :
    (off = 0 ∧ writeAccess off v s = runCommand v s) ∨ (off ≠ 0 ∧ writeAccess off v s = .next (writeWindow s off v)) := by
  unfold writeAccess
  split
  case h_1 hcmd => exact .inl ⟨regAt_eq_cmd_iff.mp hcmd, rfl⟩
  case h_2 hcmd => exact .inr ⟨fun h0 => hcmd (regAt_eq_cmd_iff.mpr h0), rfl⟩

/-! ### What passes the engine states by -/

/-- No register that a host can name shows an engine state. -/
theorem readReg_ignores_engines (s : State) (l p : Word) (x : Quad) (b : BitVec 66) (r : Reg) :
    readReg { s with lcgS := l, pcgS := p, xs := x, bbsC := b } r = readReg s r := by
  cases r <;> rfl

theorem readWindow_ignores_engines (s : State) (l p : Word) (x : Quad) (b : BitVec 66) (off : Nat) :
    readWindow { s with lcgS := l, pcgS := p, xs := x, bbsC := b } off = readWindow s off := by
  unfold readWindow
  cases regAt off with
  | none => rfl
  | some r => exact readReg_ignores_engines s l p x b r

theorem writeReg_sameEngines (s : State) (r : Reg) (v : Word) : SameEngines s (writeReg s r v) := by
  rw [writeReg_frame]
  exact ⟨rfl, rfl, rfl, rfl⟩

theorem writeWindow_sameEngines (s : State) (off : Nat) (v : Word) : SameEngines s (writeWindow s off v) := by
  unfold writeWindow
  cases regAt off with
  | none => exact ⟨rfl, rfl, rfl, rfl⟩
  | some r => exact writeReg_sameEngines s r v

theorem readAccess_sameEngines {off : Nat} {s t : State} (h : readAccess off s = .next t) : SameEngines s t := by
  obtain ⟨-, -, hfault⟩ | ⟨-, hnext⟩ := readAccess_cases off s
  · rw [hfault] at h
    cases h
  · rw [hnext] at h
    cases h
    exact ⟨rfl, rfl, rfl, rfl⟩

theorem writeAccess_sameEngines {off : Nat} {v : Word} {s t : State} (hoff : off ≠ 0) (h : writeAccess off v s = .next t) :
    SameEngines s t := by
  obtain ⟨h0, -⟩ | ⟨-, hstore⟩ := writeAccess_cases off v s
  · exact absurd h0 hoff
  · rw [hstore] at h
    cases h
    exact writeWindow_sameEngines s off v

/-- A host access that is no well-placed write of `CMD` keeps the four engine states: a read changes no register, and a write away
from offset 0 reaches the seed buffer only. -/
theorem performAccess_sameEngines {a : Access} {s t : State} (hcmd : ∀ v, a ≠ .write s.params.coreBase 8 v)
    (h : performAccess a s = .next t) : SameEngines s t := by
  obtain ⟨-, hfault⟩ | ⟨off, hwin, ⟨addr, size, rfl, hread⟩ | ⟨addr, size, v, rfl, hwrite⟩⟩ := performAccess_cases a s
  · rw [hfault] at h
    cases h
  · exact readAccess_sameEngines (hread.symm.trans h)
  · obtain ⟨hsize, haddr, -, -⟩ := windowOffset_some.mp hwin
    simp only [Access.size, Access.addr] at hsize haddr
    have hoff : off ≠ 0 := by
      rintro rfl
      exact hcmd v (by rw [hsize, haddr, Nat.add_zero])
    exact writeAccess_sameEngines (s := s.respond .done) hoff (hwrite.symm.trans h)

/-- Settles O9: reads go through `readReg`, which names no engine state, and every host access but a write of `CMD` keeps all four. -/
theorem engineStateIsPrivate : Obligations.EngineStateIsPrivate := by
  refine ⟨readWindow_ignores_engines, fun s t a rest hp hcmd hstep => ?_⟩
  rw [step_of_pending hp] at hstep
  exact performAccess_sameEngines (s := s.setPending rest) hcmd hstep

end Sys2Proof.Machine
end

section
/-! SUPPORT. The byte order of the seed buffer and of the result buffer (20_memory.md R57): both go through `quadByte`, so its value as
a number is worked out once, and a byte of the result buffer is one of `quadByte` below `RBLEN`. -/

namespace Sys2Proof.Machine

/-- The word that holds byte `k` of the 32, in the list of the four words. -/
theorem quadWord_eq_getD (q : Quad) {i : Nat} (h : i < 4) : quadWord q (Fin.ofNat 4 i) = [q.w0, q.w1, q.w2, q.w3].getD i 0 := by
  match i, h with
  | 0, _ | 1, _ | 2, _ | 3, _ => rfl

/-- Byte `k` of an array of four as a number: byte `k mod 8`, from the most significant end, of word `k div 8`. -/
theorem quadByte_toNat (q : Quad) {k : Nat} (h : k < 32) :
    (quadByte q k).toNat = ([q.w0, q.w1, q.w2, q.w3].getD (k / 8) 0).toNat / 2 ^ (56 - 8 * (k % 8)) % 256 := by
  rw [quadByte, wordByte_toNat, quadWord_eq_getD q (by omega : k / 8 < 4)]

/-- The result buffer's sequence holds byte `k` of `RB` at every place below `RBLEN` (10_state.md R32). -/
theorem resultBytes_getElem? (s : State) {k : Nat} (h : k < s.rbLen.toNat) : (resultBytes s)[k]? = some (quadByte s.rb k) := by
  rw [resultBytes, List.getElem?_map, List.getElem?_range h, Option.map_some]

/-- Settles O24: a byte of either buffer is a `quadByte` of its four words, whose value is `quadByte_toNat`. -/
theorem byteSequencesAreBigEndian : Obligations.ByteSequencesAreBigEndian := by
  intro s k hk
  exact ⟨quadByte_toNat s.sb hk, fun hlen => ⟨quadByte s.rb k, resultBytes_getElem? s hlen, quadByte_toNat s.rb hk⟩⟩

end Sys2Proof.Machine
end

section
/-! SUPPORT. The command word (30_encoding.md R70 to R76): what each field and the map decode to, from them the one word of each
command, and what a write of a word to `CMD` does. -/

namespace Sys2Proof

/-! ### The fields and the map, each decoded and encoded -/

theorem engineOf_eq_some_iff (e : BitVec 4) (E : Engine) : engineOf e = some E ↔ e = engineCode E := by
  cases E <;> revert e <;> decide

theorem fnOf_eq_some_iff (f : BitVec 4) (F : Fn) : fnOf f = some F ↔ f = fnCode F := by
  cases F <;> revert f <;> decide

theorem instrOf_eq_some_iff (c : Cell) (i : Instr) : instrOf c = some i ↔ c = i.cell := by
  constructor
  · obtain ⟨E, F⟩ := c
    intro h
    cases E <;> cases F <;> cases h <;> rfl
  · rintro rfl
    cases i <;> rfl

/-- A word is its three fields side by side (R70). -/
theorem eq_setWidth_append_iff_fields (v : Word) (e f : BitVec 4) :
    v = (e ++ f).setWidth 64 ↔ fieldMbz v = 0 ∧ fieldEng v = e ∧ fieldFn v = f := by
  have hOp : (e ++ f).toNat = e.toNat * 16 + f.toNat := by
    rw [BitVec.toNat_append, ← Nat.shiftLeft_add_eq_or_of_lt f.isLt, Nat.shiftLeft_eq]
  simp only [fieldMbz, fieldEng, fieldFn, ← BitVec.toNat_inj, BitVec.toNat_setWidth, BitVec.extractLsb'_toNat,
    Nat.shiftRight_eq_div_pow, hOp, BitVec.ofNat_eq_ofNat, BitVec.toNat_ofNat]
  omega

/-! ### The legal words -/

/-- Everything that decodes: no `MBZ` bit, and an engine and a function whose cell of the map is the command's (R76). -/
theorem decode_eq_ok_iff_fields (v : Word) (i : Instr) :
    decode v = .ok i ↔ fieldMbz v = 0 ∧ engineOf (fieldEng v) = some i.cell.engine ∧ fnOf (fieldFn v) = some i.cell.fn := by
  unfold decode
  by_cases hMbz : fieldMbz v = 0
  · rw [if_neg (not_not_intro hMbz)]
    cases hEng : engineOf (fieldEng v) with
    | none => simp
    | some E =>
      cases hFn : fnOf (fieldFn v) with
      | none => simp
      | some F =>
        have hCell : instrOf ⟨E, F⟩ = some i ↔ E = i.cell.engine ∧ F = i.cell.fn := by
          rw [instrOf_eq_some_iff, Cell.mk.injEq]
        simp only [hMbz, true_and, Option.some.injEq, ← hCell]
        cases instrOf ⟨E, F⟩ <;> simp
  · rw [if_pos hMbz]
    simp only [hMbz, false_and, reduceCtorEq]

/-- A word decodes to a command exactly where it is the command's one word (R74). -/
theorem decode_eq_ok_iff (v : Word) (i : Instr) : decode v = .ok i ↔ v = encode i := by
  rw [decode_eq_ok_iff_fields, engineOf_eq_some_iff, fnOf_eq_some_iff, encode, opcode, eq_setWidth_append_iff_fields]

/-- The word of a command, as numbers: 0 in bits 63:8 and the opcode in the low byte (R74). -/
theorem eq_encode_iff_toNat (v : Word) (i : Instr) :
    v = encode i ↔ v.toNat / 256 = 0 ∧ v.toNat % 256 = (opcode i.cell).toNat := by
  rw [encode, ← BitVec.toNat_inj, BitVec.toNat_setWidth]
  omega

/-- The legal words: bits 63:8 are zero and the low byte is a command's opcode (R76). -/
theorem exists_decode_eq_ok_iff (v : Word) :
    (∃ i, decode v = .ok i) ↔ v.toNat / 256 = 0 ∧ ∃ i : Instr, v.toNat % 256 = (opcode i.cell).toNat := by
  simp only [decode_eq_ok_iff, eq_encode_iff_toNat, exists_and_left]

theorem mem_allInstrs (i : Instr) : i ∈ Machine.allInstrs := by
  cases i <;> decide

theorem map_opcode_allInstrs : Machine.allInstrs.map (fun i => (opcode i.cell).toNat) =
    [0x01, 0x02, 0x03, 0x04, 0x05, 0x11, 0x12, 0x13, 0x14, 0x15, 0x21, 0x22, 0x23, 0x24, 0x25, 0x26, 0x27, 0x28, 0x31, 0x32,
      0x33, 0x35] := rfl

theorem exists_eq_opcode_iff (n : Nat) :
    (∃ i : Instr, n = (opcode i.cell).toNat) ↔ n ∈ Machine.allInstrs.map (fun i => (opcode i.cell).toNat) := by
  simp only [List.mem_map, mem_allInstrs, true_and, eq_comm]

end Sys2Proof

namespace Sys2Proof.Machine

/-! ### A write of `CMD` -/

/-- An illegal word, whatever makes it so, raises `IllegalCommand` (60_exceptions.md R201). -/
theorem runCommand_of_error {v : Word} {why : Illegal} (s : State) (h : decode v = .error why) :
    runCommand v s = .next (s.setErr .illegalCommand) := by
  rw [runCommand, h]
  rfl

/-- A write of a word to `CMD` is taken and answered, and runs the word. -/
theorem step_cmdWrite {s : State} {v : Word} {rest : List Input}
    (h : s.pending = .access (.write s.params.coreBase 8 v) :: rest) :
    step s = runCommand v ((s.setPending rest).respond .done) := by
  have hOff : windowOffset (s.setPending rest).params s.params.coreBase 8 = some 0 :=
    windowOffset_at (p := s.params) (off := 0) rfl (by decide)
  rw [step_of_pending h]
  simp only [perform, performAccess, Access.addr, Access.size, hOff]
  rfl

/-- Settles O3: the legal words are the 22 encodings (`decode_eq_ok_iff`), and a write of any other word to `CMD` raises
`IllegalCommand`. -/
theorem illegalWordSetsErrTwoAndNothingElse : Obligations.IllegalWordSetsErrTwoAndNothingElse := by
  intro v
  refine ⟨?_, fun s rest hPending hIllegal => ?_⟩
  · rw [exists_decode_eq_ok_iff, exists_eq_opcode_iff, map_opcode_allInstrs]
  · cases hDecode : decode v with
    | ok i => exact absurd hDecode (hIllegal i)
    | error why =>
      rw [step_cmdWrite hPending, runCommand_of_error _ hDecode]
      rfl

end Sys2Proof.Machine
end

section
/-! SUPPORT. What a legal command does to `STATUS.ERR` (40_seed_state.md R90, R94): every command is a check of its minimum length and a
rest that completes. -/

namespace Sys2Proof.Machine

/-- A minimum of 0 never raises: the command completes at any length (40_seed_state.md R94). -/
theorem requireLen_zero (s done : State) : requireLen 0 s done = complete done :=
  requireLen_enough (Nat.zero_le _)

/-- Every command checks its minimum length on the state before it and, where the length is enough, completes. -/
theorem exec_eq_requireLen (i : Instr) (s : State) : ∃ done, exec i s = requireLen (minLen i) s done := by
  cases i
  case lcgSeed | lcgSetst | pcgSeed | pcgSetst | xosSeed | xosSetst => exact ⟨_, rfl⟩
  all_goals exact ⟨_, (requireLen_zero s _).symm⟩

/-- Settles O17: `exec_eq_requireLen` makes every command a length check, whose two sides are `requireLen_short` and
`requireLen_enough`. -/
theorem shortInputIsTheOnlyErrorOfALegalCommand : Obligations.ShortInputIsTheOnlyErrorOfALegalCommand := by
  intro i s
  obtain ⟨done, hExec⟩ := exec_eq_requireLen i s
  rw [hExec]
  exact ⟨requireLen_short, fun hEnough => ⟨_, requireLen_enough hEnough, rfl⟩⟩

end Sys2Proof.Machine
end

section
/-! SUPPORT. The LCG64 commands (41_lcg64.md R110 to R115): the multiplier-adder as a number, the value a `GEN32` returns, and from
the laws of the shared operations the next state of each command. -/

namespace Sys2Proof.Machine

/-! ### The multiplier-adder and the half, as numbers -/

/-- The advance is the low 64 bits of the full product and sum (R110). -/
theorem lcgAdvance_toNat (s : Word) :
    (lcgAdvance s).toNat = (1442695040888963407 + 6364136223846793005 * s.toNat) % 2 ^ 64 := by
  rw [lcgAdvance, BitVec.toNat_add, BitVec.toNat_mul, Nat.add_mod_mod]
  rfl

theorem lcgAdvance_eq_ofNat (s : Word) :
    lcgAdvance s = BitVec.ofNat 64 ((1442695040888963407 + 6364136223846793005 * s.toNat) % 2 ^ 64) := by
  rw [← lcgAdvance_toNat, BitVec.ofNat_toNat, BitVec.setWidth_eq]

/-- The half of a `GEN32`, zero-extended to a result word (R114). -/
theorem halfOf_setWidth (h : Half) (w : Word) :
    (halfOf h w).setWidth 64 = BitVec.ofNat 64 (if h = .low then w.toNat % 2 ^ 32 else w.toNat / 2 ^ 32) := by
  rw [← halfOf_toNat, ← BitVec.ofNat_toNat]

/-! ### The commands -/

/-- The one load of `LCG.SEED` and `LCG.SETST`, on both sides of its length check (R111, R112). -/
theorem requireLen_setLcg_seedWord (s : State) :
    (8 ≤ s.sbLen.toNat → requireLen 8 s (s.setLcg (seedWord s 0)) = .next { s with lcgS := s.sb.w0, err := .ok }) ∧
      (s.sbLen.toNat < 8 → requireLen 8 s (s.setLcg (seedWord s 0)) = .next { s with err := .invalidLength }) :=
  ⟨requireLen_enough, requireLen_short⟩

theorem exec_lcgGen32 (s : State) :
    exec .lcgGen32 s = .next { s with
      lcgS := lcgAdvance s.lcgS
      res := (halfOf s.params.gen32HalfLcg (lcgAdvance s.lcgS)).setWidth 64
      err := .ok } := rfl

theorem exec_lcgGen64 (s : State) :
    exec .lcgGen64 s = .next { s with lcgS := lcgAdvance s.lcgS, res := lcgAdvance s.lcgS, err := .ok } := rfl

/-- Settles O31: the new state is `lcgAdvance_eq_ofNat`, and the result its half by `halfOf_setWidth`. -/
theorem lcgGen32AdvancesOnceAndReturnsAHalf : Obligations.LcgGen32AdvancesOnceAndReturnsAHalf := by
  refine ⟨(decode_eq_ok_iff _ _).mpr rfl, fun s => ?_⟩
  rw [exec_lcgGen32, halfOf_setWidth, lcgAdvance_toNat, lcgAdvance_eq_ofNat]

/-- Settles O32: the state and the result are both `lcgAdvance_eq_ofNat`. -/
theorem lcgGen64ReturnsTheAdvancedState : Obligations.LcgGen64ReturnsTheAdvancedState := by
  refine ⟨(decode_eq_ok_iff _ _).mpr rfl, fun s => ?_⟩
  rw [exec_lcgGen64, lcgAdvance_eq_ofNat]

/-- Settles O29: both commands are the load of `requireLen_setLcg_seedWord`. -/
theorem lcgSeedAndSetstLoadTheFirstWord : Obligations.LcgSeedAndSetstLoadTheFirstWord := by
  refine ⟨(decode_eq_ok_iff _ _).mpr rfl, (decode_eq_ok_iff _ _).mpr rfl, fun s => ?_⟩
  obtain ⟨hEnough, hShort⟩ := requireLen_setLcg_seedWord s
  exact ⟨fun h => ⟨hEnough h, hEnough h⟩, fun h => ⟨hShort h, hShort h⟩⟩

/-- Settles O30: `LCG.GETST` is `PutState` of the state word (40_seed_state.md R98), then completion. -/
theorem lcgGetstPutsTheStateInTheResultBuffer : Obligations.LcgGetstPutsTheStateInTheResultBuffer :=
  ⟨(decode_eq_ok_iff _ _).mpr rfl, fun _ => rfl⟩

end Sys2Proof.Machine
end

section
/-! SUPPORT. The PCG-XSH-RR commands (42_pcg.md R130 to R136): the rotation and the permuter as numbers, and from the laws of the shared
operations the next state of each command. -/

namespace Sys2Proof.Machine

/-! ### The permuter and the advance, as numbers -/

/-- The two parts of a rotation share no bit, so their union is their sum (00_scope.md R16). -/
theorem shiftRight_or_shiftLeft_eq_add (x : BitVec 32) (k : Nat) : x >>> k ||| x <<< (32 - k) = x >>> k + x <<< (32 - k) := by
  refine (BitVec.add_eq_or_of_and_eq_zero _ _ (BitVec.eq_of_getLsbD_eq fun i _ => ?_)).symm
  rw [BitVec.getLsbD_and, BitVec.getLsbD_ushiftRight, BitVec.getLsbD_shiftLeft, BitVec.getLsbD_zero]
  by_cases hi : i < 32 - k
  · simp [hi]
  · simp [BitVec.getLsbD_of_ge x (k + i) (by omega)]

/-- A rotation right below a whole turn as a number: the part shifted out at the right comes back in at the left. -/
theorem rotr32_toNat (x : BitVec 32) {k : Nat} (h : k < 32) :
    (rotr32 x k).toNat = (x.toNat / 2 ^ k + x.toNat * 2 ^ (32 - k)) % 2 ^ 32 := by
  obtain rfl | hpos := Nat.eq_zero_or_pos k
  · rw [rotr32_zero]
    omega
  · rw [rotr32, Nat.mod_eq_of_lt h, Nat.mod_eq_of_lt (by omega : 32 - k < 32), shiftRight_or_shiftLeft_eq_add, BitVec.toNat_add,
      BitVec.toNat_ushiftRight, BitVec.toNat_shiftLeft, Nat.shiftRight_eq_div_pow, Nat.shiftLeft_eq, Nat.add_mod_mod]

/-- The rotation count of the permuter is the top five bits of the state (R130). -/
theorem topFive_toNat (a : Word) : (a.extractLsb' 59 5).toNat = a.toNat / 2 ^ 59 := by
  have := a.isLt
  rw [BitVec.extractLsb'_toNat, Nat.shiftRight_eq_div_pow]
  omega

/-- The advance of any number, one of 2^64 and above included: the sum that `PCG.SEED` advances has not been reduced (R131). -/
theorem ofNat_lcgAdvance (n : Nat) :
    BitVec.ofNat 64 (1442695040888963407 + 6364136223846793005 * n) = lcgAdvance (BitVec.ofNat 64 n) := by
  rw [BitVec.ofNat_add, BitVec.ofNat_mul, lcgAdvance, Config.lcgInc, Config.lcgMul]

theorem ofNat_lcgAdvance_toNat (a : Word) :
    BitVec.ofNat 64 (1442695040888963407 + 6364136223846793005 * a.toNat) = lcgAdvance a := by
  rw [ofNat_lcgAdvance, BitVec.ofNat_toNat, BitVec.setWidth_eq]

/-- Two 32-bit outputs side by side as a number, the first in the high half (R135). -/
theorem append_eq_ofNat (x y : BitVec 32) : x ++ y = BitVec.ofNat 64 (x.toNat * 2 ^ 32 + y.toNat) := by
  rw [← Nat.shiftLeft_eq, Nat.shiftLeft_add_eq_or_of_lt y.isLt, ← BitVec.toNat_append, BitVec.ofNat_toNat, BitVec.setWidth_eq]

/-- Settles O35: the rotated field is bits 58:27 of the shifted state, and the rotation is `rotr32_toNat`. -/
theorem pcgPermuteRotatesTheShiftedState : Obligations.PcgPermuteRotatesTheShiftedState := by
  intro a
  have hCount : a.toNat / 2 ^ 59 < 32 := by
    have := a.isLt
    omega
  rw [pcgPermute, topFive_toNat, rotr32_toNat _ hCount, BitVec.extractLsb'_toNat, BitVec.toNat_xor, BitVec.toNat_ushiftRight,
    Nat.shiftRight_eq_div_pow, Nat.shiftRight_eq_div_pow]

/-! ### The commands -/

theorem exec_pcgSeed (s : State) :
    exec .pcgSeed s = requireLen 8 s (s.setPcg (lcgAdvance (Config.lcgInc + s.sb.w0))) := rfl

theorem exec_pcgSetst (s : State) : exec .pcgSetst s = requireLen 8 s (s.setPcg s.sb.w0) := rfl

theorem exec_pcgGen32 (s : State) :
    exec .pcgGen32 s = .next { s with
      pcgS := lcgAdvance s.pcgS
      res := (pcgPermute s.pcgS).setWidth 64
      err := .ok } := rfl

theorem exec_pcgGen64 (s : State) :
    exec .pcgGen64 s = .next { s with
      pcgS := lcgAdvance (lcgAdvance s.pcgS)
      res := pcgPermute s.pcgS ++ pcgPermute (lcgAdvance s.pcgS)
      err := .ok } := rfl

/-- Settles O36: the numbers name one advance of `INC + SB[0]` (`ofNat_lcgAdvance`), and the length check has two sides. -/
theorem pcgSeedAddsTheIncrementAndWarmsUp : Obligations.PcgSeedAddsTheIncrementAndWarmsUp := by
  refine ⟨(decode_eq_ok_iff _ _).mpr rfl, fun s => ?_⟩
  have hSum : BitVec.ofNat 64 (1442695040888963407 + s.sb.w0.toNat) = Config.lcgInc + s.sb.w0 := by
    rw [BitVec.ofNat_add, BitVec.ofNat_toNat, BitVec.setWidth_eq, Config.lcgInc]
  rw [exec_pcgSeed, ofNat_lcgAdvance, hSum]
  exact ⟨requireLen_enough, requireLen_short⟩

/-- Settles O39: the new state is `ofNat_lcgAdvance_toNat`, and the result the permutation of the old one, zero-extended. -/
theorem pcgGen32PermutesTheOldState : Obligations.PcgGen32PermutesTheOldState := by
  refine ⟨(decode_eq_ok_iff _ _).mpr rfl, fun s => ?_⟩
  rw [exec_pcgGen32, ofNat_lcgAdvance_toNat, BitVec.ofNat_toNat]

/-- Settles O40: both advances are `ofNat_lcgAdvance_toNat`, and the result joins the outputs by `append_eq_ofNat`. -/
theorem pcgGen64JoinsTwoOutputs : Obligations.PcgGen64JoinsTwoOutputs := by
  refine ⟨(decode_eq_ok_iff _ _).mpr rfl, fun s => ?_⟩
  simp only [exec_pcgGen64, append_eq_ofNat, ofNat_lcgAdvance_toNat]

/-- Settles O37: the two sides of the length check before the direct load. -/
theorem pcgSetstLoadsDirectly : Obligations.PcgSetstLoadsDirectly := by
  refine ⟨(decode_eq_ok_iff _ _).mpr rfl, fun s => ?_⟩
  rw [exec_pcgSetst]
  exact ⟨requireLen_enough, requireLen_short⟩

/-- Settles O38: `PCG.GETST` is `PutState` of the state word (40_seed_state.md R98), then completion. -/
theorem pcgGetstPutsTheStateInTheResultBuffer : Obligations.PcgGetstPutsTheStateInTheResultBuffer :=
  ⟨(decode_eq_ok_iff _ _).mpr rfl, fun _ => rfl⟩

end Sys2Proof.Machine
end

section
/-! SUPPORT. The Xoshiro256** commands that load, store and step the state (43_xoshiro.md R150 to R156): the step in the words on entry,
and from the laws of the shared operations the next state of each command. -/

namespace Sys2Proof.Machine

/-! ### The step in the words on entry -/

/-- The output of a step, with core's rotation (R151). -/
theorem xosStep_fst (w : Quad) : (xosStep w).1 = (w.w1 * 5).rotateLeft 7 * 9 := by
  rw [xosStep_output, rotl64_eq_rotateLeft _ (by decide) (by decide)]

/-- The array after a step: each in-place statement has read the words as they stood then, and every word is an exclusive or of words on
entry (R151). -/
theorem xosStep_snd (w : Quad) :
    (xosStep w).2 = ⟨w.w0 ^^^ w.w1 ^^^ w.w3, w.w0 ^^^ w.w1 ^^^ w.w2, w.w0 ^^^ w.w2 ^^^ (w.w1 <<< 17),
      (w.w1 ^^^ w.w3).rotateLeft 45⟩ := by
  have h0 : w.w0 ^^^ (w.w3 ^^^ w.w1) = w.w0 ^^^ w.w1 ^^^ w.w3 := by ac_rfl
  have h1 : w.w1 ^^^ (w.w2 ^^^ w.w0) = w.w0 ^^^ w.w1 ^^^ w.w2 := by ac_rfl
  rw [xosStep_array, rotl64_eq_rotateLeft _ (by decide) (by decide), h0, h1, BitVec.xor_comm w.w2, BitVec.xor_comm w.w3]

/-! ### The commands -/

theorem exec_xosGen64 (s : State) :
    exec .xosGen64 s = .next { s with xs := (xosStep s.xs).2, res := (xosStep s.xs).1, err := .ok } := rfl

theorem exec_xosGen32 (s : State) :
    exec .xosGen32 s = .next { s with
      xs := (xosStep s.xs).2
      res := (halfOf s.params.gen32HalfXos (xosStep s.xs).1).setWidth 64
      err := .ok } := rfl

/-- The one load of `XOS.SEED` and `XOS.SETST`, on both sides of its length check (R150, R152). -/
theorem requireLen_setXs_seedQuad (s : State) :
    (32 ≤ s.sbLen.toNat → requireLen 32 s (s.setXs (seedQuad s)) =
      .next { s with xs := ⟨s.sb.w0, s.sb.w1, s.sb.w2, s.sb.w3⟩, err := .ok }) ∧
      (s.sbLen.toNat < 32 → requireLen 32 s (s.setXs (seedQuad s)) = .next { s with err := .invalidLength }) :=
  ⟨requireLen_enough, requireLen_short⟩

/-- Settles O45: the result is `xosStep_fst` and the new array `xosStep_snd`. -/
theorem xosGen64StepsInPlace : Obligations.XosGen64StepsInPlace := by
  refine ⟨(decode_eq_ok_iff _ _).mpr rfl, fun s => ?_⟩
  rw [exec_xosGen64, xosStep_fst, xosStep_snd]

/-- Settles O46: `XOS.GEN32` makes the step of `XOS.GEN64`, and its result is the half of that output by `halfOf_setWidth`. -/
theorem xosGen32ReturnsAHalfOfGen64 : Obligations.XosGen32ReturnsAHalfOfGen64 := by
  refine ⟨(decode_eq_ok_iff _ _).mpr rfl, fun s => ⟨_, exec_xosGen64 s, ?_⟩⟩
  rw [exec_xosGen32, halfOf_setWidth]

/-- Settles O43: both commands are the load of `requireLen_setXs_seedQuad`. -/
theorem xosSeedAndSetstLoadFourWords : Obligations.XosSeedAndSetstLoadFourWords := by
  refine ⟨(decode_eq_ok_iff _ _).mpr rfl, (decode_eq_ok_iff _ _).mpr rfl, fun s => ?_⟩
  obtain ⟨hEnough, hShort⟩ := requireLen_setXs_seedQuad s
  exact ⟨fun h => ⟨hEnough h, hEnough h⟩, fun h => ⟨hShort h, hShort h⟩⟩

/-- Settles O44: `XOS.GETST` is `PutState` of the four words (40_seed_state.md R98), then completion. -/
theorem xosGetstPutsFourWords : Obligations.XosGetstPutsFourWords :=
  ⟨(decode_eq_ok_iff _ _).mpr rfl, fun _ => rfl⟩

end Sys2Proof.Machine
end

section
/-! SUPPORT. The Blum Blum Shub commands (44_bbs.md R180 to R185): what `BBS_C` holds after a load, the word it shows, the value of
`BbsNext` in closed form, and from the laws of the shared operations the next state of each command. -/

namespace Sys2Proof.Machine

/-! ### What `BBS_C` holds and shows -/

/-- `BBS_C` holds every seed value exactly, signed or unsigned (R180). -/
theorem bbsHold_seedValue_toInt (p : Params) (w : Word) : (bbsHold (seedValue p w)).toInt = seedValue p w := by
  obtain ⟨hlo, hhi⟩ := seedValue_range p w
  have hmin : (-(2 ^ 63) : Int) ≤ if p.bbsSeedSigned then -(2 ^ 63) else 0 := by split <;> decide
  exact bbsHold_toInt (by omega) (by omega)

/-- The low 64 bits in two's complement of the integer in `BBS_C` are the low 64 bits of the register (R184). -/
theorem ofInt_toInt_eq_setWidth (b : BitVec 66) : BitVec.ofInt 64 b.toInt = b.setWidth 64 :=
  BitVec.signExtend_eq_setWidth_of_le b (by decide)

theorem ofInt_eq_ofNat_toNat (n : Nat) {c : Int} (h : 0 ≤ c) : BitVec.ofInt n c = BitVec.ofNat n c.toNat := by
  rw [← BitVec.ofInt_natCast, Int.toNat_of_nonneg h]

/-! ### The squaring engine and its filter -/

/-- The modulus of the squaring engine is `2^64 + 1` (R182). -/
theorem bbsSquare_eq (c : Int) : bbsSquare c = c * c % (2 ^ 64 + 1) := rfl

/-- The filter stops at the first square, unless that is `2^64`; then at the next square, which is 1 (R182). -/
theorem bbsNext_eq (c : Int) : bbsNext c = if bbsSquare c = Config.bbsR then 1 else bbsSquare c := by
  have hOne : (1 : Int) ≠ Config.bbsR := by decide
  simp only [bbsNext, bbsLoop]
  by_cases hReject : bbsSquare c = Config.bbsR
  · simp only [hReject, bbsSquare_bound, if_pos, if_neg hOne]
  · simp only [if_neg hReject]

/-- The filter never lets `2^64` through (R185). -/
theorem bbsNext_range (c : Int) : 0 ≤ bbsNext c ∧ bbsNext c < 2 ^ 64 := by
  obtain ⟨hlo, hhi⟩ := bbsSquare_range c
  rw [bbsNext_eq]
  split
  · decide
  · exact ⟨hlo, lt_of_le_of_ne hhi ‹_›⟩

/-! ### The commands -/

theorem exec_bbsSeed (s : State) :
    exec .bbsSeed s = .next { s with bbsC := bbsHold (seedValue s.params s.sb.w0), err := .ok } := rfl

theorem exec_bbsSetst (s : State) :
    exec .bbsSetst s = .next { s with bbsC := bbsHold (seedValue s.params s.sb.w0), err := .ok } := rfl

theorem exec_bbsGetst (s : State) :
    exec .bbsGetst s = .next { s with rb := ⟨BitVec.ofInt 64 s.bbsC.toInt, 0, 0, 0⟩, rbLen := 8, err := .ok } := rfl

theorem exec_bbsNext (s : State) :
    exec .bbsNext s = .next { s with
      bbsC := bbsHold (bbsNext s.bbsC.toInt)
      res := BitVec.ofInt 64 (bbsNext s.bbsC.toInt)
      err := .ok } := rfl

/-- Settles O53: both commands are the one load of `exec_bbsSeed`, which `BBS_C` holds exactly by `bbsHold_seedValue_toInt`. -/
theorem bbsSeedAndSetstLoadTheInteger : Obligations.BbsSeedAndSetstLoadTheInteger :=
  ⟨(decode_eq_ok_iff _ _).mpr rfl, (decode_eq_ok_iff _ _).mpr rfl, fun s =>
    ⟨_, exec_bbsSeed s, exec_bbsSetst s, bbsHold_seedValue_toInt s.params s.sb.w0, rfl⟩⟩

/-- Settles O54: `BBS.GETST` is `PutState` of the low word (40_seed_state.md R98), which is `ofInt_toInt_eq_setWidth`. -/
theorem bbsGetstPutsTheLowWord : Obligations.BbsGetstPutsTheLowWord := by
  refine ⟨(decode_eq_ok_iff _ _).mpr rfl, fun s => ?_⟩
  rw [exec_bbsGetst, ofInt_toInt_eq_setWidth]

/-- Settles O55: the value is `bbsNext_eq`, its range `bbsNext_range`, and an integer of that range is held as a number. -/
theorem bbsNextSquaresAndRejects : Obligations.BbsNextSquaresAndRejects := by
  refine ⟨(decode_eq_ok_iff _ _).mpr rfl, fun s => ?_⟩
  intro v r
  have hNext : bbsNext s.bbsC.toInt = r := by rw [bbsNext_eq, bbsSquare_eq, Config.bbsR]
  obtain ⟨hlo, hhi⟩ := bbsNext_range s.bbsC.toInt
  rw [exec_bbsNext, bbsHold, ofInt_eq_ofNat_toNat 66 hlo, ofInt_eq_ofNat_toNat 64 hlo]
  rw [hNext] at hlo hhi ⊢
  exact ⟨hlo, hhi, rfl⟩

end Sys2Proof.Machine
end

section
/-! SUPPORT. The order of the checks on one access (60_exceptions.md R205): the bus first, then the command word, then the length. An
illegal word is `runCommand_of_error`, and both sides of the length check are `shortInputIsTheOnlyErrorOfALegalCommand`. -/

namespace Sys2Proof.Machine

/-- An ill-formed access is a bus error before anything is decoded (20_memory.md R53). -/
theorem performAccess_of_not_wf {a : Access} {s : State} (h : a.wf s.params = false) : performAccess a s = .fault .busError := by
  obtain ⟨-, hFault⟩ | ⟨off, hOff, -⟩ := performAccess_cases a s
  · exact hFault
  · rw [← windowOffset_isSome, hOff] at h
    cases h

/-- A legal word runs its command. -/
theorem runCommand_of_ok {v : Word} {i : Instr} (s : State) (h : decode v = .ok i) : runCommand v s = exec i s := by
  rw [runCommand, h]

/-- Settles O6: an ill-formed access stops at the bus (`performAccess_of_not_wf`); a word written to `CMD` is then illegal whatever
the length is (`runCommand_of_error`), or runs its command
(`runCommand_of_ok`), whose length check has the two sides of `shortInputIsTheOnlyErrorOfALegalCommand`. -/
theorem errorsAreCheckedInOrder : Obligations.ErrorsAreCheckedInOrder := by
  intro s a rest hPending
  refine ⟨fun hBus => ?_, ?_⟩
  · rw [step_of_pending hPending]
    exact performAccess_of_not_wf (s := s.setPending rest) hBus
  · rintro v rfl
    rw [step_cmdWrite hPending]
    refine ⟨fun why hWord => ⟨_, runCommand_of_error _ hWord, rfl⟩, fun i hWord hShort => ?_, fun i hWord hEnough => ?_⟩
    · rw [runCommand_of_ok _ hWord]
      exact ⟨_, (shortInputIsTheOnlyErrorOfALegalCommand i _).1 hShort, rfl⟩
    · rw [runCommand_of_ok _ hWord]
      exact (shortInputIsTheOnlyErrorOfALegalCommand i _).2 hEnough

end Sys2Proof.Machine
end

section
/-! SUPPORT. The reset input (70_reset_and_hazards.md R230): the one step that takes it. What the reset replaces is the law `setRegs_eq`
of the register update it is. -/

namespace Sys2Proof.Machine

/-- A reset input between two accesses stops no step: the step is the reset of the state that is left with the rest pending. -/
theorem step_reset {s : State} {draw : Entropy} {hidden : JumpUnit} {rest : List Input}
    (h : s.pending = .reset draw hidden :: rest) : step s = .next (applyReset draw hidden (s.setPending rest)) := by
  rw [step_of_pending h, perform]

/-- `BBS_C` holds the word of a draw as the signed or the unsigned integer that the parameter picks (44_bbs.md R180). -/
theorem bbsHold_seedValue_eq (p : Params) (w : Word) :
    bbsHold (seedValue p w) = BitVec.ofInt 66 (if p.bbsSeedSigned then w.toInt else (w.toNat : Int)) := by
  rw [bbsHold, seedValue]

/-- Settles O12: the step is the reset alone (`step_reset`), which replaces all the registers and nothing else (`setRegs_eq`), and
`BBS_C` takes its draw as `bbsHold_seedValue_eq` says. -/
theorem resetInputSetsEveryRegister : Obligations.ResetInputSetsEveryRegister := by
  intro s draw hidden rest hPending
  rw [step_reset hPending, applyReset, setRegs_eq, Regs.afterReset, bbsHold_seedValue_eq]
  rfl

end Sys2Proof.Machine
end

section
/-! SUPPORT. The command word both ways (30_encoding.md section 2), and the step that a written word makes (40_seed_state.md R90). -/

namespace Sys2Proof.Machine

/-- Settles O2: the fields and the map are decoded where they are encoded, and a word is its fields (`decode_eq_ok_iff`). -/
theorem decodeAgreesWithEncode : Obligations.DecodeAgreesWithEncode := decode_eq_ok_iff

/-- Settles O1: each word of the table is the encoding of its command. -/
theorem decodesEveryOpcodeOfTheTable : Obligations.DecodesEveryOpcodeOfTheTable := by
  unfold Obligations.DecodesEveryOpcodeOfTheTable
  simp only [decode_eq_ok_iff]
  decide

/-- A word that the table decoder reads as a command decodes to it. -/
theorem decode_of_decodeTableWord {nbits w : Nat} {i : Instr} (h : decodeTableWord nbits w = some i) :
    decode (BitVec.ofNat 64 (w % 2 ^ nbits)) = .ok i := by
  unfold decodeTableWord at h
  cases hDecode : decode (BitVec.ofNat 64 (w % 2 ^ nbits)) with
  | ok j =>
    rw [hDecode] at h
    exact congrArg _ (Option.some.inj h)
  | error why =>
    rw [hDecode] at h
    cases h

/-- Settles O4: a written word runs its command (`step_cmdWrite`, `runCommand_of_ok`), and `withFetchWord` is such a write. -/
theorem stepRunsTheDecodedCommand : Obligations.StepRunsTheDecodedCommand := by
  refine ⟨fun s v i rest hPending hDecode => ?_, fun s nbits w i hTable => ?_⟩
  · rw [step_cmdWrite hPending, runCommand_of_ok _ hDecode]
    rfl
  · rw [step_cmdWrite (s := s.withFetchWord nbits w) rfl, runCommand_of_ok _ (decode_of_decodeTableWord hTable)]
    rfl

/-- Settles O10: with nothing pending `step` is the identity. -/
theorem idleStepHoldsTheState : Obligations.IdleStepHoldsTheState := by
  intro s hIdle
  rw [step, hIdle]

/-- Settles O13: the abandoned command's fault carries the state of `step_reset`. -/
theorem resetDuringACommandLeavesNoPartOfIt : Obligations.ResetDuringACommandLeavesNoPartOfIt := by
  intro s v draw hidden rest hPending
  refine ⟨applyReset draw hidden (s.setPending rest), ?_, step_reset rfl⟩
  rw [step_of_pending hPending, perform]

/-- Settles O28: a step of the CORE at place `k` sets that place of the list, and only that. -/
theorem instancesShareNothing : Obligations.InstancesShareNothing := by
  intro k sys s hk
  obtain ⟨hLt, -⟩ := List.getElem?_eq_some_iff.mp hk
  refine ⟨fun s' hStep => ⟨sys.set k s', ?_, List.getElem?_set_self hLt, List.length_set,
    fun j hj => List.getElem?_set_ne hj.symm⟩, fun f hStep => ?_⟩
  all_goals simp only [stepInstance, hk, hStep]

end Sys2Proof.Machine
end

section
/-! SUPPORT. The command as a function of the state (40_seed_state.md R90 to R94): what each command makes of the state once its length check
passes, so that `exec` is one check and one update. What all commands share (their frame, the invariant, what a result depends on) is
then read off the update, command by command. -/

namespace Sys2Proof.Machine

/-! ### The effect of a command behind its length check -/

/-- The state a command makes before it completes, its length check passed. Tied to the model by `exec_eq_effect`. -/
def commandEffect (i : Instr) (s : State) : State :=
  match i with
  | .lcgSeed | .lcgSetst => s.setLcg s.sb.w0
  | .lcgGetst => putWord s s.lcgS
  | .lcgGen32 => (s.setLcg (lcgAdvance s.lcgS)).setRes ((halfOf s.params.gen32HalfLcg (lcgAdvance s.lcgS)).setWidth 64)
  | .lcgGen64 => (s.setLcg (lcgAdvance s.lcgS)).setRes (lcgAdvance s.lcgS)
  | .pcgSeed => s.setPcg (lcgAdvance (Config.lcgInc + s.sb.w0))
  | .pcgSetst => s.setPcg s.sb.w0
  | .pcgGetst => putWord s s.pcgS
  | .pcgGen32 => (s.setPcg (lcgAdvance s.pcgS)).setRes ((pcgPermute s.pcgS).setWidth 64)
  | .pcgGen64 =>
    (s.setPcg (lcgAdvance (lcgAdvance s.pcgS))).setRes (pcgPermute s.pcgS ++ pcgPermute (lcgAdvance s.pcgS))
  | .xosSeed | .xosSetst => s.setXs s.sb
  | .xosGetst => putQuad s s.xs
  | .xosGen32 => (s.setXs (xosStep s.xs).2).setRes ((halfOf s.params.gen32HalfXos (xosStep s.xs).1).setWidth 64)
  | .xosGen64 => (s.setXs (xosStep s.xs).2).setRes (xosStep s.xs).1
  | .xosJump => (s.setJumpUnit (xorJump s.params.jumpPoly s.xs s.xj)).setXs (xorJump s.params.jumpPoly s.xs s.xj).xa
  | .xosLjump =>
    (s.setJumpUnit (xorJump s.params.longJumpPoly s.xs s.xj)).setXs (xorJump s.params.longJumpPoly s.xs s.xj).xa
  | .xosSplit => putQuad (s.setJumpUnit (xorJump s.params.jumpPoly s.xs s.xj)) (xorJump s.params.jumpPoly s.xs s.xj).xa
  | .bbsSeed | .bbsSetst => s.setBbs (seedValue s.params s.sb.w0)
  | .bbsGetst => putWord s (BitVec.ofInt 64 s.bbsC.toInt)
  | .bbsNext => (s.setBbs (bbsNext s.bbsC.toInt)).setRes (BitVec.ofInt 64 (bbsNext s.bbsC.toInt))

/-- Every command is the check of its minimum length before its effect (R94). -/
theorem exec_eq_effect (i : Instr) (s : State) : exec i s = requireLen (minLen i) s (commandEffect i s) := by
  cases i
  case lcgSeed | lcgSetst | pcgSeed | pcgSetst | xosSeed | xosSetst => rfl
  all_goals exact (requireLen_zero s _).symm

/-- The state a command leaves: `ERR` at 1 and nothing else where its input is too short, else its effect with `ERR` at 0. -/
def commandResult (i : Instr) (s : State) : State :=
  if s.sbLen.toNat < minLen i then s.setErr .invalidLength else (commandEffect i s).setErr .ok

/-- Every command answers a next state. -/
theorem exec_eq_next (i : Instr) (s : State) : exec i s = .next (commandResult i s) := by
  rw [exec_eq_effect, commandResult]
  split
  · exact requireLen_short ‹_›
  · exact requireLen_enough (Nat.not_lt.mp ‹_›)

theorem commandResult_of_enough {i : Instr} {s : State} (h : minLen i ≤ s.sbLen.toNat) :
    commandResult i s = (commandEffect i s).setErr .ok := if_neg (Nat.not_lt.mpr h)

theorem exec_of_enough {i : Instr} {s : State} (h : minLen i ≤ s.sbLen.toNat) :
    exec i s = .next ((commandEffect i s).setErr .ok) := by
  rw [exec_eq_next, commandResult_of_enough h]

/-- A command that takes no byte sequence completes at any length. -/
theorem exec_of_minLen_zero {i : Instr} (s : State) (h : minLen i = 0) : exec i s = .next ((commandEffect i s).setErr .ok) :=
  exec_of_enough (h ▸ Nat.zero_le _)

/-- Everything a command can leave. -/
theorem commandResult_cases (i : Instr) (s : State) :
    commandResult i s = s.setErr .invalidLength ∨ commandResult i s = (commandEffect i s).setErr .ok :=
  ite_eq_or_eq ..

/-! ### What each effect leaves alone -/

section
variable (i : Instr) (s : State)

/-- No effect reaches the seed buffer or anything outside the CORE (R92). -/
theorem commandEffect_inputs : SameSeedBuffer s (commandEffect i s) ∧ SameOutside s (commandEffect i s) := by
  cases i <;> exact ⟨⟨rfl, rfl⟩, rfl, rfl, rfl⟩

theorem commandEffect_lcgS (h : i ∉ [.lcgSeed, .lcgSetst, .lcgGen32, .lcgGen64]) : (commandEffect i s).lcgS = s.lcgS := by
  cases i
  case lcgSeed | lcgSetst | lcgGen32 | lcgGen64 => exact absurd (by decide) h
  all_goals rfl

theorem commandEffect_pcgS (h : i ∉ [.pcgSeed, .pcgSetst, .pcgGen32, .pcgGen64]) : (commandEffect i s).pcgS = s.pcgS := by
  cases i
  case pcgSeed | pcgSetst | pcgGen32 | pcgGen64 => exact absurd (by decide) h
  all_goals rfl

theorem commandEffect_xs (h : i ∉ [.xosSeed, .xosSetst, .xosGen32, .xosGen64, .xosJump, .xosLjump]) :
    (commandEffect i s).xs = s.xs := by
  cases i
  case xosSeed | xosSetst | xosGen32 | xosGen64 | xosJump | xosLjump => exact absurd (by decide) h
  all_goals rfl

theorem commandEffect_bbsC (h : i ∉ [.bbsSeed, .bbsSetst, .bbsNext]) : (commandEffect i s).bbsC = s.bbsC := by
  cases i
  case bbsSeed | bbsSetst | bbsNext => exact absurd (by decide) h
  all_goals rfl

theorem commandEffect_res (h : i ∉ [.lcgGen32, .lcgGen64, .pcgGen32, .pcgGen64, .xosGen32, .xosGen64, .bbsNext]) :
    (commandEffect i s).res = s.res := by
  cases i
  case lcgGen32 | lcgGen64 | pcgGen32 | pcgGen64 | xosGen32 | xosGen64 | bbsNext => exact absurd (by decide) h
  all_goals rfl

theorem commandEffect_rb (h : i ∉ [.lcgGetst, .pcgGetst, .xosGetst, .bbsGetst, .xosSplit]) :
    (commandEffect i s).rb = s.rb ∧ (commandEffect i s).rbLen = s.rbLen := by
  cases i
  case lcgGetst | pcgGetst | xosGetst | bbsGetst | xosSplit => exact absurd (by decide) h
  all_goals exact ⟨rfl, rfl⟩

theorem commandEffect_hidden (h : i ∉ [.xosJump, .xosLjump, .xosSplit]) : SameHidden s (commandEffect i s) := by
  cases i
  case xosJump | xosLjump | xosSplit => exact absurd (by decide) h
  all_goals exact ⟨rfl, rfl, rfl⟩

end

/-- A command leaves the model's own fields and the seed buffer alone. -/
theorem commandResult_inputs (i : Instr) (s : State) :
    SameSeedBuffer s (commandResult i s) ∧ SameOutside s (commandResult i s) := by
  obtain h | h := commandResult_cases i s <;> rw [h]
  · exact ⟨⟨rfl, rfl⟩, rfl, rfl, rfl⟩
  · exact commandEffect_inputs i s

/-- No command leaves the reserved code (60_exceptions.md R200). -/
theorem commandResult_err (i : Instr) (s : State) : (commandResult i s).err ≠ .reserved := by
  obtain h | h := commandResult_cases i s <;> rw [h] <;> simp

/-- Settles O18: a short input changes `ERR` alone, and each effect writes the registers of its row. -/
theorem commandsWriteOnlyTheirRow : Obligations.CommandsWriteOnlyTheirRow := by
  intro i s
  refine ⟨_, exec_eq_next i s, ?_⟩
  obtain h | h := commandResult_cases i s <;> rw [h]
  · simp [SameSeedBuffer, SameOutside, SameHidden]
  · obtain ⟨hSeedBuffer, hOutside⟩ := commandEffect_inputs i s
    exact ⟨hSeedBuffer, hOutside, commandEffect_lcgS i s, commandEffect_pcgS i s, commandEffect_xs i s, commandEffect_bbsC i s,
      commandEffect_res i s, commandEffect_rb i s, commandEffect_hidden i s⟩

end Sys2Proof.Machine
end

section
/-! SUPPORT. The invariant of a powered machine at rest (10_state.md section 2, 44_bbs.md R186): a reset gives it, every command and every
host access keeps it, and so does every step. -/

namespace Sys2Proof.Machine

/-! ### The registers of the invariant -/

/-- An integer of the unsigned range stands at rest with either kind of seed (44_bbs.md R186). -/
theorem bbsAtRest_bbsHold_of_range {p : Params} {c : Int} (hlo : (if p.bbsSeedSigned then -(2 ^ 63) else 0) ≤ c)
    (hhi : c < 2 ^ 64) : BbsAtRest p (bbsHold c) := by
  have hmin : (-(2 ^ 63) : Int) ≤ if p.bbsSeedSigned then -(2 ^ 63) else 0 := by split <;> decide
  have hInt : (bbsHold c).toInt = c := bbsHold_toInt (by omega) (by omega)
  rw [BbsAtRest, hInt]
  exact ⟨hlo, hhi⟩

theorem bbsAtRest_seedValue (p : Params) (w : Word) : BbsAtRest p (bbsHold (seedValue p w)) :=
  bbsAtRest_bbsHold_of_range (seedValue_range p w).1 (seedValue_range p w).2

theorem bbsAtRest_bbsNext (p : Params) (c : Int) : BbsAtRest p (bbsHold (bbsNext c)) := by
  have hzero : (if p.bbsSeedSigned then -(2 ^ 63) else 0 : Int) ≤ 0 := by split <;> decide
  obtain ⟨hlo, hhi⟩ := bbsNext_range c
  exact bbsAtRest_bbsHold_of_range (hzero.trans hlo) hhi

/-- The commands that write `BBS_C` leave it at rest: a seed value, or a square that the filter lets through. -/
theorem commandEffect_bbsAtRest (i : Instr) {s : State} (h : BbsAtRest s.params s.bbsC) :
    BbsAtRest s.params (commandEffect i s).bbsC := by
  by_cases hi : i ∈ [.bbsSeed, .bbsSetst, .bbsNext]
  · cases i <;> simp at hi
    case bbsSeed | bbsSetst => exact bbsAtRest_seedValue _ _
    case bbsNext => exact bbsAtRest_bbsNext _ _
  · rwa [commandEffect_bbsC i s hi]

/-- The commands that write the result buffer put 8 or 32 bytes there, the words beyond them 0 (40_seed_state.md R98). -/
theorem commandEffect_resultShape (i : Instr) {s : State} (h : ResultShape s.rbLen s.rb) :
    ResultShape (commandEffect i s).rbLen (commandEffect i s).rb := by
  by_cases hi : i ∈ [.lcgGetst, .pcgGetst, .xosGetst, .bbsGetst, .xosSplit]
  · cases i <;> simp at hi
    case lcgGetst | pcgGetst | bbsGetst => exact .inr (.inl ⟨rfl, rfl, rfl, rfl⟩)
    case xosGetst | xosSplit => exact .inl rfl
  · obtain ⟨hRb, hRbLen⟩ := commandEffect_rb i s hi
    rwa [hRb, hRbLen]

/-! ### What keeps the invariant -/

theorem commandEffect_inv (i : Instr) {s : State} (h : Inv s) : Inv ((commandEffect i s).setErr .ok) := by
  obtain ⟨hWf, hRest, hShape, -, hPower⟩ := h
  obtain ⟨-, hParams, hPending, -⟩ := commandEffect_inputs i s
  refine ⟨hParams ▸ hWf, ?_, commandEffect_resultShape i hShape, nofun, hPending ▸ hPower⟩
  rw [setErr_params, hParams]
  exact commandEffect_bbsAtRest i hRest

theorem setErr_inv {e : ErrCode} {s : State} (he : e ≠ .reserved) (h : Inv s) : Inv (s.setErr e) := by
  obtain ⟨hWf, hRest, hShape, -, hPower⟩ := h
  exact ⟨hWf, hRest, hShape, he, hPower⟩

theorem commandResult_inv (i : Instr) {s : State} (h : Inv s) : Inv (commandResult i s) := by
  obtain hCmd | hCmd := commandResult_cases i s <;> rw [hCmd]
  · exact setErr_inv nofun h
  · exact commandEffect_inv i h

/-- A reset of a machine with well-formed parameters gives the invariant, whatever the registers were (70_reset_and_hazards.md R230). -/
theorem applyReset_inv {s : State} (draw : Entropy) (hidden : JumpUnit) (hWf : s.params.wf = true)
    (hPower : ∀ e ∈ s.pending, e.keepsPower = true) : Inv (applyReset draw hidden s) :=
  ⟨hWf, bbsAtRest_seedValue s.params draw.bbs, .inr (.inr ⟨rfl, rfl⟩), nofun, hPower⟩

/-! ### What an access leaves -/

/-- Everything a write of `CMD` can leave. -/
theorem runCommand_cases (v : Word) (s : State) :
    runCommand v s = .next (s.setErr .illegalCommand) ∨ ∃ i, decode v = .ok i ∧ runCommand v s = .next (commandResult i s) := by
  cases h : decode v with
  | error why => exact .inl (runCommand_of_error s h)
  | ok i => exact .inr ⟨i, rfl, (runCommand_of_ok s h).trans (exec_eq_next i s)⟩

/-- A well-formed write stops no step. -/
theorem writeAccess_next (off : Nat) (v : Word) (s : State) : ∃ t, writeAccess off v s = .next t := by
  obtain ⟨-, hRun⟩ | ⟨-, hStore⟩ := writeAccess_cases off v s
  · obtain hIllegal | ⟨i, -, hOk⟩ := runCommand_cases v s
    · exact ⟨_, hRun.trans hIllegal⟩
    · exact ⟨_, hRun.trans hOk⟩
  · exact ⟨_, hStore⟩

/-- A write of the window away from `CMD` reaches only `SBLEN` and `SB`. -/
theorem writeWindow_frame (s : State) (off : Nat) (v : Word) :
    writeWindow s off v = { s with sbLen := (writeWindow s off v).sbLen, sb := (writeWindow s off v).sb } := by
  unfold writeWindow
  cases regAt off with
  | none => rfl
  | some r => exact writeReg_frame s r v

/-- Everything a host access that stops no step can leave. -/
theorem performAccess_next {a : Access} {s t : State} (h : performAccess a s = .next t) :
    (∃ off, t = s.respond (.data (readWindow s off))) ∨ (∃ off v, t = writeWindow (s.respond .done) off v) ∨
      t = (s.respond .done).setErr .illegalCommand ∨ ∃ i, t = commandResult i (s.respond .done) := by
  obtain ⟨-, hFault⟩ | ⟨off, -, ⟨-, -, -, hRead⟩ | ⟨-, -, v, -, hWrite⟩⟩ := performAccess_cases a s
  · rw [hFault] at h
    cases h
  · obtain ⟨-, -, hFault⟩ | ⟨-, hNext⟩ := readAccess_cases off s
    · rw [hRead, hFault] at h
      cases h
    · rw [hRead, hNext] at h
      exact .inl ⟨off, by cases h; rfl⟩
  · rw [hWrite] at h
    obtain ⟨-, hRun⟩ | ⟨-, hStore⟩ := writeAccess_cases off v (s.respond .done)
    · rw [hRun] at h
      obtain hIllegal | ⟨i, -, hOk⟩ := runCommand_cases v (s.respond .done)
      · rw [hIllegal] at h
        exact .inr (.inr (.inl (by cases h; rfl)))
      · rw [hOk] at h
        exact .inr (.inr (.inr ⟨i, by cases h; rfl⟩))
    · rw [hStore] at h
      exact .inr (.inl ⟨off, v, by cases h; rfl⟩)

theorem performAccess_inv {a : Access} {s t : State} (hInv : Inv s) (h : performAccess a s = .next t) :
    Inv t ∧ t.params = s.params := by
  obtain ⟨off, rfl⟩ | ⟨off, v, rfl⟩ | rfl | ⟨i, rfl⟩ := performAccess_next h
  · exact ⟨hInv, rfl⟩
  · rw [writeWindow_frame]
    exact ⟨hInv, rfl⟩
  · exact ⟨setErr_inv nofun hInv, rfl⟩
  · exact ⟨commandResult_inv i hInv, (commandResult_inputs i (s.respond .done)).2.1⟩

/-! ### The obligations -/

/-- Settles O16: the step takes one input, which is no power event, and a host access (`performAccess_inv`) or a reset
(`applyReset_inv`) keeps the invariant. -/
theorem everyStepKeepsTheInvariant : Obligations.EveryStepKeepsTheInvariant := by
  intro s t hInv hStep
  obtain ⟨-, hIdle⟩ | ⟨e, rest, hPending, hPerform⟩ := step_cases s
  · rw [hIdle] at hStep
    cases hStep
    exact ⟨hInv, rfl⟩
  · obtain ⟨hWf, hRest, hShape, hErr, hPower⟩ := hInv
    rw [hPending, List.forall_mem_cons] at hPower
    obtain ⟨hFirst, hPower⟩ := hPower
    rw [hPerform] at hStep
    cases e with
    | access a => exact performAccess_inv (s := s.setPending rest) ⟨hWf, hRest, hShape, hErr, hPower⟩ hStep
    | reset draw hidden =>
      cases hStep
      exact ⟨applyReset_inv (s := s.setPending rest) draw hidden hWf hPower, rfl⟩
    | resetDuring v draw hidden => cases hStep
    | power contents => cases hFirst

/-- Settles O14: the power event replaces the registers and keeps the parameters, and `applyReset_inv` asks nothing of the registers. -/
theorem resetAfterAPowerEventRestoresTheInvariant : Obligations.ResetAfterAPowerEventRestoresTheInvariant := by
  intro s contents draw hidden rest hWf hPower hPending
  exact ⟨_, _, step_of_pending hPending, rfl, step_reset rfl, applyReset_inv draw hidden hWf hPower⟩

/-- Settles O15: `State.resetWith` is what a reset leaves of any state with the same parameters and nothing pending. -/
theorem invariantHoldsAtReset : Obligations.InvariantHoldsAtReset := by
  have hReset (p : Params) (draw : Entropy) (hWf : p.wf = true) : Inv (State.resetWith p draw) :=
    applyReset_inv (s := State.resetWith p draw) draw JumpUnit.zero hWf nofun
  exact ⟨hReset, hReset _ _ (by decide)⟩

end Sys2Proof.Machine
end

section
/-! SUPPORT. What a command's result depends on: not on the hidden registers of the jump unit (10_state.md R35), nor on what is pending. So
machines that agree in the rest agree after every command (40_seed_state.md R100), the hidden registers reach nothing else, and inputs
can be performed one after another with the others still pending. -/

namespace Sys2Proof.Machine

/-! ### The jump unit starts afresh -/

/-- The passes of the loop neither read nor keep the index register. -/
theorem jumpPasses_xj_irrelevant (poly start acc : Quad) (j k : BitVec 9) (n : Nat) :
    (jumpPasses poly n ⟨start, acc, j⟩).xw = (jumpPasses poly n ⟨start, acc, k⟩).xw ∧
      (jumpPasses poly n ⟨start, acc, j⟩).xa = (jumpPasses poly n ⟨start, acc, k⟩).xa := by
  induction n with
  | zero => exact ⟨rfl, rfl⟩
  | succ n ih =>
    obtain ⟨hXw, hXa⟩ := ih
    simp only [jumpPasses_succ, jumpPass, hXw, hXa, and_self]

/-- What `XorJump` leaves does not depend on the index register before it (43_xoshiro.md R155). -/
theorem xorJump_xj_irrelevant (poly start : Quad) (j k : BitVec 9) : xorJump poly start j = xorJump poly start k := by
  rw [xorJump_eq, xorJump_eq, (jumpPasses_xj_irrelevant poly start Quad.zero j k 256).2]

/-! ### Machines that agree in all but `ERR`, the hidden registers and the model's lists -/

/-- The parameters, engine states, seed buffer and result registers of two machines agree. -/
abbrev SameVisible (s t : State) : Prop := t.params = s.params ∧ SameEngines s t ∧ SameSeedBuffer s t ∧ SameResults s t

/-- Where they agree, the second machine is the first but for the registers left out. -/
theorem SameVisible.eq {s t : State} (h : SameVisible s t) :
    t = { s with err := t.err, xw := t.xw, xa := t.xa, xj := t.xj, pending := t.pending, responses := t.responses } := by
  obtain ⟨hParams, ⟨hLcg, hPcg, hXs, hBbs⟩, ⟨hSbLen, hSb⟩, hRes, hRbLen, hRb⟩ := h
  rw [← hParams, ← hLcg, ← hPcg, ← hXs, ← hBbs, ← hSbLen, ← hSb, ← hRes, ← hRbLen, ← hRb]

theorem commandEffect_sameVisible (i : Instr) {s t : State} (h : SameVisible s t) :
    SameVisible (commandEffect i s) (commandEffect i t) := by
  rw [h.eq]
  cases i
  case xosJump | xosLjump | xosSplit =>
    simp [SameVisible, SameEngines, SameSeedBuffer, SameResults, commandEffect, putQuad, xorJump_xj_irrelevant _ _ t.xj s.xj]
  all_goals exact ⟨rfl, ⟨rfl, rfl, rfl, rfl⟩, ⟨rfl, rfl⟩, rfl, rfl, rfl⟩

theorem commandResult_sameVisible (i : Instr) {s t : State} (h : SameVisible s t) :
    SameVisible (commandResult i s) (commandResult i t) := by
  obtain ⟨-, -, ⟨hSbLen, -⟩, -⟩ := id h
  unfold commandResult
  rw [hSbLen]
  split
  · exact h
  · exact commandEffect_sameVisible i h

/-- Settles O19: by induction on the commands, each of which keeps the agreement (`commandResult_sameVisible`). -/
theorem sameEnginesGiveTheSameResults : Obligations.SameEnginesGiveTheSameResults := by
  intro cmds
  induction cmds with
  | nil => exact fun s t _ hEngines hSeedBuffer hResults => ⟨s, t, rfl, rfl, hEngines, hSeedBuffer, hResults⟩
  | cons i rest ih =>
    intro s t hParams hEngines hSeedBuffer hResults
    obtain ⟨hParams', hEngines', hSeedBuffer', hResults'⟩ :=
      commandResult_sameVisible i ⟨hParams, hEngines, hSeedBuffer, hResults⟩
    simp only [runCommands, exec_eq_next]
    exact ih _ _ hParams' hEngines' hSeedBuffer' hResults'

/-! ### What no access can see -/

/-- Two outcomes agree: two next states that are related, or one and the same fault. -/
inductive SameOutcome (R : State → State → Prop) : Result → Result → Prop where
  | next {s t : State} (h : R s t) : SameOutcome R (.next s) (.next t)
  | fault (f : Fault) : SameOutcome R (.fault f) (.fault f)

/-- The related states differ in nothing that a host access, or the command it may run, looks at, and everything an access can do to them
keeps them related. -/
structure Unseen (R : State → State → Prop) : Prop where
  params {s t : State} (h : R s t) : t.params = s.params
  err {s t : State} (h : R s t) : t.err = s.err
  readReg {s t : State} (r : Reg) (h : R s t) : readReg t r = readReg s r
  respond {s t : State} (r : Response) (h : R s t) : R (s.respond r) (t.respond r)
  writeReg {s t : State} (r : Reg) (v : Word) (h : R s t) : R (writeReg s r v) (writeReg t r v)
  setErr {s t : State} (e : ErrCode) (h : R s t) : R (s.setErr e) (t.setErr e)
  commandResult {s t : State} (i : Instr) (h : R s t) : R (commandResult i s) (commandResult i t)

section
variable {R : State → State → Prop} {s t : State}

theorem Unseen.runCommand (hR : Unseen R) (v : Word) (h : R s t) : SameOutcome R (runCommand v s) (runCommand v t) := by
  cases hDecode : decode v with
  | error why =>
    rw [runCommand_of_error s hDecode, runCommand_of_error t hDecode]
    exact .next (hR.setErr _ h)
  | ok i =>
    rw [runCommand_of_ok s hDecode, runCommand_of_ok t hDecode, exec_eq_next, exec_eq_next]
    exact .next (hR.commandResult i h)

theorem Unseen.readWindow (hR : Unseen R) (off : Nat) (h : R s t) : readWindow t off = readWindow s off := by
  unfold Machine.readWindow
  cases regAt off with
  | none => rfl
  | some r => exact hR.readReg r h

theorem Unseen.writeWindow (hR : Unseen R) (off : Nat) (v : Word) (h : R s t) :
    R (writeWindow s off v) (writeWindow t off v) := by
  unfold Machine.writeWindow
  cases regAt off with
  | none => exact h
  | some r => exact hR.writeReg r v h

theorem Unseen.readAccess (hR : Unseen R) (off : Nat) (h : R s t) : SameOutcome R (readAccess off s) (readAccess off t) := by
  unfold Machine.readAccess
  rw [hR.err h, hR.readWindow off h]
  split
  · exact .fault _
  · exact .next (hR.respond _ h)

theorem Unseen.writeAccess (hR : Unseen R) (off : Nat) (v : Word) (h : R s t) :
    SameOutcome R (writeAccess off v s) (writeAccess off v t) := by
  unfold Machine.writeAccess
  split
  · exact hR.runCommand v h
  · exact .next (hR.writeWindow off v h)

theorem Unseen.performAccess (hR : Unseen R) (a : Access) (h : R s t) :
    SameOutcome R (performAccess a s) (performAccess a t) := by
  unfold Machine.performAccess
  rw [hR.params h]
  cases windowOffset s.params a.addr a.size with
  | none => exact .fault _
  | some off =>
    cases a with
    | read addr size => exact hR.readAccess off h
    | write addr size v => exact hR.writeAccess off v (hR.respond _ h)

end

/-! ### The hidden registers reach nothing else -/

theorem commandEffect_setJumpUnit (i : Instr) (s : State) (u : JumpUnit) :
    ∃ u', commandEffect i (s.setJumpUnit u) = (commandEffect i s).setJumpUnit u' := by
  cases i
  case xosJump | xosLjump | xosSplit =>
    simp only [commandEffect, setJumpUnit_params, setJumpUnit_xs, setJumpUnit_xj, xorJump_xj_irrelevant _ _ u.xj s.xj]
    exact ⟨xorJump _ s.xs s.xj, rfl⟩
  all_goals exact ⟨u, rfl⟩

theorem commandResult_setJumpUnit (i : Instr) (s : State) (u : JumpUnit) :
    ∃ u', commandResult i (s.setJumpUnit u) = (commandResult i s).setJumpUnit u' := by
  unfold commandResult
  rw [setJumpUnit_sbLen]
  split
  · exact ⟨u, rfl⟩
  · obtain ⟨u', hEffect⟩ := commandEffect_setJumpUnit i s u
    exact ⟨u', by rw [hEffect]; rfl⟩

/-- The second state is the first with some values in the hidden registers. -/
def DifferOnlyInHidden (s t : State) : Prop := ∃ u, t = s.setJumpUnit u

theorem unseen_differOnlyInHidden : Unseen DifferOnlyInHidden where
  params := by rintro s _ ⟨u, rfl⟩; rfl
  err := by rintro s _ ⟨u, rfl⟩; rfl
  readReg := by rintro s _ r ⟨u, rfl⟩; cases r <;> rfl
  respond := by rintro s _ r ⟨u, rfl⟩; exact ⟨u, rfl⟩
  writeReg := by rintro s _ r v ⟨u, rfl⟩; exact ⟨u, by cases r <;> rfl⟩
  setErr := by rintro s _ e ⟨u, rfl⟩; exact ⟨u, rfl⟩
  commandResult := by rintro s _ i ⟨u, rfl⟩; exact commandResult_setJumpUnit i s u

theorem step_setJumpUnit (s : State) (u : JumpUnit) : SameOutcome DifferOnlyInHidden (step s) (step (s.setJumpUnit u)) := by
  obtain ⟨hPending, hIdle⟩ | ⟨e, rest, hPending, hPerform⟩ := step_cases s
  · rw [hIdle, step, setJumpUnit_pending, hPending]
    exact .next ⟨u, rfl⟩
  · rw [hPerform, step_of_pending (s := s.setJumpUnit u) hPending]
    cases e with
    | access a => exact unseen_differOnlyInHidden.performAccess a ⟨u, rfl⟩
    | reset draw hidden => exact .next ⟨hidden, rfl⟩
    | resetDuring v draw hidden => exact .fault _
    | power contents => exact .next ⟨⟨contents.xw, contents.xa, contents.xj⟩, rfl⟩

/-- Settles O20: the two steps agree (`step_setJumpUnit`), since no access sees the hidden registers. -/
theorem hiddenRegistersAreNotObservable : Obligations.HiddenRegistersAreNotObservable := by
  intro s u
  have hAgree := step_setJumpUnit s u
  refine ⟨fun t hNext => ?_, fun f hFault => ?_⟩
  · rw [hNext] at hAgree
    generalize step (s.setJumpUnit u) = r at hAgree
    obtain ⟨⟨u', rfl⟩⟩ := hAgree
    exact ⟨u', rfl⟩
  · rw [hFault] at hAgree
    generalize step (s.setJumpUnit u) = r at hAgree
    cases hAgree
    rfl

/-! ### Inputs in receive order -/

theorem commandResult_setPending (i : Instr) (s : State) (l : List Input) :
    commandResult i (s.setPending l) = (commandResult i s).setPending l := by
  unfold commandResult
  rw [setPending_toRegs]
  split
  · rfl
  · cases i <;> rfl

theorem unseen_setPending (l : List Input) : Unseen fun s t => t = s.setPending l where
  params := by rintro s _ rfl; rfl
  err := by rintro s _ rfl; rfl
  readReg := by rintro s _ r rfl; cases r <;> rfl
  respond := by rintro s _ r rfl; rfl
  writeReg := by rintro s _ r v rfl; cases r <;> rfl
  setErr := by rintro s _ e rfl; rfl
  commandResult := by rintro s _ i rfl; exact commandResult_setPending i s l

/-- What an input does, it does whatever is pending behind it. -/
theorem perform_setPending (e : Input) (s : State) (l : List Input) (h : ∀ v draw hidden, e ≠ .resetDuring v draw hidden) :
    SameOutcome (fun s t => t = s.setPending l) (perform e s) (perform e (s.setPending l)) := by
  cases e with
  | access a => exact (unseen_setPending l).performAccess a rfl
  | reset draw hidden => exact .next rfl
  | resetDuring v draw hidden => exact absurd rfl (h v draw hidden)
  | power contents => exact .next rfl

/-- An access that meets the conditions of the bus, at a state that does not stand at the reserved code, stops no step. -/
theorem performAccess_of_wf {a : Access} {s : State} (hWf : a.wf s.params = true) (hErr : s.err ≠ .reserved) :
    ∃ t, performAccess a s = .next t := by
  obtain ⟨hIll, -⟩ | ⟨off, -, ⟨-, -, -, hRead⟩ | ⟨-, -, v, -, hWrite⟩⟩ := performAccess_cases a s
  · rw [hIll] at hWf
    cases hWf
  · obtain ⟨-, hReserved, -⟩ | ⟨-, hNext⟩ := readAccess_cases off s
    · exact absurd hReserved hErr
    · exact ⟨_, hRead.trans hNext⟩
  · rw [hWrite]
    exact writeAccess_next off v (s.respond .done)

/-- A host access leaves the parameters and what is pending, and never the reserved code where that was not there. -/
theorem performAccess_frame {a : Access} {s t : State} (h : performAccess a s = .next t) :
    t.params = s.params ∧ t.pending = s.pending ∧ (s.err ≠ .reserved → t.err ≠ .reserved) := by
  obtain ⟨off, rfl⟩ | ⟨off, v, rfl⟩ | rfl | ⟨i, rfl⟩ := performAccess_next h
  · exact ⟨rfl, rfl, id⟩
  · rw [writeWindow_frame]
    exact ⟨rfl, rfl, id⟩
  · exact ⟨rfl, rfl, nofun⟩
  · obtain ⟨-, hParams, hPending, -⟩ := commandResult_inputs i (s.respond .done)
    exact ⟨hParams, hPending, fun _ => commandResult_err i _⟩

/-- An input that stops no step leaves the parameters, what is pending, and a state at which the next one stops no step either. -/
theorem perform_of_wf {e : Input} {s : State} (hWf : e.wf s.params = true) (hErr : s.err ≠ .reserved) :
    ∃ t, perform e s = .next t ∧ t.params = s.params ∧ t.pending = s.pending ∧ t.err ≠ .reserved := by
  cases e with
  | access a =>
    obtain ⟨t, hNext⟩ := performAccess_of_wf hWf hErr
    obtain ⟨hParams, hPending, hErr'⟩ := performAccess_frame hNext
    exact ⟨t, hNext, hParams, hPending, hErr' hErr⟩
  | reset draw hidden => exact ⟨_, rfl, rfl, rfl, nofun⟩
  | resetDuring v draw hidden => cases hWf
  | power contents => exact ⟨_, rfl, rfl, rfl, by simpa [Input.wf, applyPower] using hWf⟩

/-- A run makes its first step and goes on. -/
theorem host_run_succ (M : Host.Core) (k : Nat) {s t : M.State} (h : M.step s = .next t) : M.run (k + 1) s = M.run k t := by
  rw [Host.Core.run, h]

theorem core_run_succ (k : Nat) {s t : State} (h : step s = .next t) : Sys2Proof.core.run (k + 1) s = Sys2Proof.core.run k t :=
  host_run_succ Sys2Proof.core k h

/-- The run over a list of pending inputs is the inputs performed one after another. -/
theorem core_run_eq_performAll (l : List Input) :
    ∀ s : State, s.err ≠ .reserved → (∀ e ∈ l, e.wf s.params = true) →
      ∃ t : State, Sys2Proof.core.run l.length (s.setPending l) = .next t ∧ t.pending = [] ∧
        performAll l (s.setPending []) = .next t := by
  induction l with
  | nil => exact fun s _ _ => ⟨_, rfl, rfl, rfl⟩
  | cons e rest ih =>
    intro s hErr hWf
    rw [List.forall_mem_cons] at hWf
    obtain ⟨hFirst, hRest⟩ := hWf
    obtain ⟨t, hPerform, hParams, hPending, hErr'⟩ := perform_of_wf (s := s.setPending rest) hFirst hErr
    obtain ⟨u, hRun, hDone, hAll⟩ := ih t hErr' (by rwa [hParams])
    have hStep : step (s.setPending (e :: rest)) = .next (t.setPending rest) := by
      have hKeep : t.setPending rest = t := by rw [← setPending_pending s rest, ← hPending]; rfl
      rw [hKeep]
      exact (step_of_pending rfl).trans hPerform
    have hNow : perform e (s.setPending []) = .next (t.setPending []) := by
      have hAgree := perform_setPending e (s.setPending rest) [] (by rintro v draw hidden rfl; cases hFirst)
      rw [hPerform] at hAgree
      generalize hOutcome : perform e ((s.setPending rest).setPending []) = r at hAgree
      obtain ⟨rfl⟩ := hAgree
      exact hOutcome
    refine ⟨u, ?_, hDone, ?_⟩
    · rw [List.length_cons, core_run_succ _ hStep, hRun]
    · rw [performAll, hNow]
      exact hAll

/-- Settles O11: the run is the inputs one after another (`core_run_eq_performAll`), from the state with its own inputs pending. -/
theorem safeRunPerformsInputsInReceiveOrder : Obligations.SafeRunPerformsInputsInReceiveOrder :=
  fun s ⟨hErr, hWf⟩ => core_run_eq_performAll s.pending s hErr hWf

end Sys2Proof.Machine
end

section
/-! SUPPORT. What a host sees of the window (20_memory.md section 1): which accesses stop a step, what a read answers at each offset, and
what a write away from `CMD` stores. -/

namespace Sys2Proof.Machine

/-! ### What stops a step -/

/-- A well-formed access in the terms of its offset (20_memory.md R53). -/
theorem access_wf_iff (p : Params) (a : Access) :
    a.wf p = true ↔ a.size = 8 ∧ p.coreBase ≤ a.addr ∧ (a.addr - p.coreBase) % 8 = 0 ∧ a.addr - p.coreBase ≤ 0xF8 := by
  rw [← windowOffset_isSome, windowOffset]
  split
  next h => exact iff_of_true rfl h
  next h => exact iff_of_false nofun h

/-- `STATUS` stands at offset 8 and nowhere else (20_memory.md R52). -/
theorem regAt_eq_status_iff {off : Nat} : regAt off = some .status ↔ off = 0x08 := by
  constructor
  · intro h
    unfold regAt at h
    split at h
    case h_2 => rfl
    all_goals cases h
  · rintro rfl
    rfl

/-- The outcomes of a host access: a next state where it is well formed, and the two reasons for which it stops a step. -/
theorem performAccess_outcome (a : Access) (s : State) :
    (a.wf s.params = true ∧ ∃ t, performAccess a s = .next t) ∨
      (a.wf s.params = false ∧ performAccess a s = .fault .busError) ∨
      (a = .read (s.params.coreBase + 0x08) 8 ∧ s.err = .reserved ∧ performAccess a s = .fault .reservedStatus) := by
  obtain hIll | ⟨off, hOff, ⟨addr, size, rfl, hRead⟩ | ⟨addr, size, v, rfl, hWrite⟩⟩ := performAccess_cases a s
  · exact .inr (.inl hIll)
  · obtain ⟨hStatus, hErr, hFault⟩ | ⟨-, hNext⟩ := readAccess_cases off s
    · obtain ⟨hSize, hAddr, -, -⟩ := windowOffset_some.mp hOff
      rw [Access.size] at hSize
      rw [Access.addr, regAt_eq_status_iff.mp hStatus] at hAddr
      exact .inr (.inr ⟨by rw [hSize, hAddr], hErr, hRead.trans hFault⟩)
    · exact .inl ⟨by rw [← windowOffset_isSome, hOff]; rfl, _, hRead.trans hNext⟩
  · obtain ⟨t, hNext⟩ := writeAccess_next off v (s.respond .done)
    exact .inl ⟨by rw [← windowOffset_isSome, hOff]; rfl, t, hWrite.trans hNext⟩

/-- A host access is a bus error exactly where it is ill formed: the reserved code is another fault. -/
theorem performAccess_eq_busError_iff {a : Access} {s : State} :
    performAccess a s = .fault .busError ↔ a.wf s.params = false := by
  refine ⟨fun h => ?_, performAccess_of_not_wf⟩
  obtain ⟨-, t, hNext⟩ | ⟨hIll, -⟩ | ⟨-, -, hFault⟩ := performAccess_outcome a s
  · cases hNext.symm.trans h
  · exact hIll
  · cases hFault.symm.trans h

theorem step_eq_busError_iff (s : State) :
    step s = .fault .busError ↔ ∃ a rest, s.pending = .access a :: rest ∧ a.wf s.params = false := by
  constructor
  · intro h
    obtain ⟨-, hIdle⟩ | ⟨e, rest, hPending, hPerform⟩ := step_cases s
    · cases hIdle.symm.trans h
    · have hBus := hPerform.symm.trans h
      cases e with
      | access a => exact ⟨a, rest, hPending, performAccess_eq_busError_iff (s := s.setPending rest).mp hBus⟩
      | reset draw hidden => cases hBus
      | resetDuring v draw hidden => cases hBus
      | power contents => cases hBus
  · rintro ⟨a, rest, hPending, hIll⟩
    rw [step_of_pending hPending]
    exact performAccess_of_not_wf (s := s.setPending rest) hIll

/-- Settles O5: of the four inputs only a host access can be a bus error, and its other outcomes are `performAccess_outcome`. -/
theorem busErrorExactlyOnIllFormedAccess : Obligations.BusErrorExactlyOnIllFormedAccess := by
  intro s
  refine ⟨?_, fun f hFault => ?_, fun r hRefused => ?_⟩
  · rw [step_eq_busError_iff]
    simp only [← access_wf_iff, Bool.not_eq_true]
  all_goals obtain ⟨-, hIdle⟩ | ⟨e, rest, hPending, hPerform⟩ := step_cases s
  · cases hIdle.symm.trans hFault
  · have hStop := hPerform.symm.trans hFault
    cases e with
    | access a =>
      obtain ⟨-, t, hNext⟩ | ⟨-, hBus⟩ | ⟨hRead, hErr, hReserved⟩ := performAccess_outcome a (s.setPending rest)
      · cases hNext.symm.trans hStop
      · cases hBus.symm.trans hStop
        exact .inl rfl
      · cases hReserved.symm.trans hStop
        exact .inr (.inr ⟨rfl, hErr, rest, by rw [hPending, hRead]; rfl⟩)
    | reset draw hidden => cases hStop
    | resetDuring v draw hidden =>
      cases hStop
      exact .inr (.inl ⟨v, draw, hidden, rest, _, hPending, rfl⟩)
    | power contents => cases hStop
  · cases hIdle.symm.trans hRefused
  · have hStop := hPerform.symm.trans hRefused
    cases e with
    | access a =>
      obtain ⟨-, t, hNext⟩ | ⟨-, hBus⟩ | ⟨-, -, hReserved⟩ := performAccess_outcome a (s.setPending rest)
      · cases hNext.symm.trans hStop
      · cases hBus.symm.trans hStop
      · cases hReserved.symm.trans hStop
    | reset draw hidden => cases hStop
    | resetDuring v draw hidden => cases hStop
    | power contents => cases hStop

/-! ### What a read answers -/

theorem statusWord_eq {e : ErrCode} (h : e ≠ .reserved) :
    statusWord e = if e = .ok then 0 else if e = .invalidLength then 1 else 2 := by
  cases e
  case reserved => exact absurd rfl h
  all_goals rfl

/-- The map of the window as it reads, offset by offset (20_memory.md R51, R52, R54). -/
theorem readWindow_eq (s : State) (off : Nat) :
    readWindow s off =
      if off = 0x08 then statusWord s.err
      else if off = 0x10 then BitVec.ofNat 64 s.sbLen.toNat
      else if off = 0x20 then s.sb.w0
      else if off = 0x28 then s.sb.w1
      else if off = 0x30 then s.sb.w2
      else if off = 0x38 then s.sb.w3
      else if off = 0x40 then s.res
      else if off = 0x48 then BitVec.ofNat 64 s.rbLen.toNat
      else if off = 0x60 then s.rb.w0
      else if off = 0x68 then s.rb.w1
      else if off = 0x70 then s.rb.w2
      else if off = 0x78 then s.rb.w3
      else 0 := by
  unfold readWindow
  generalize hReg : regAt off = r
  unfold regAt at hReg
  simp only [BitVec.ofNat_toNat]
  split at hReg <;> subst hReg
  case h_14 => simp (disch := assumption) only [if_neg]
  all_goals rfl

theorem step_read {s : State} {off : Nat} {rest : List Input} (h8 : off % 8 = 0) (hF : off ≤ 0xF8)
    (h : s.pending = .access (.read (s.params.coreBase + off) 8) :: rest) : step s = readAccess off (s.setPending rest) := by
  rw [step_of_pending h]
  simp only [perform, performAccess, Access.addr, Access.size, setPending_params, windowOffset_at h8 hF]

/-- Settles O7: the step is a well-formed read (`step_read`), whose two cases are `readAccess_cases`, and its value is
`readWindow_eq`. -/
theorem readAnswersTheRegisterAndChangesNone : Obligations.ReadAnswersTheRegisterAndChangesNone := by
  intro s off rest h8 hF hPending
  rw [step_read h8 hF hPending]
  obtain ⟨hStatus, hErr, hFault⟩ | ⟨hReadable, hNext⟩ := readAccess_cases off (s.setPending rest)
  · refine ⟨fun _ => hFault, fun hOther => ?_⟩
    rw [regAt_eq_status_iff] at hStatus
    exact absurd ⟨hStatus, hErr⟩ (not_and_or.mpr hOther)
  · rw [regAt_eq_status_iff] at hReadable
    refine ⟨fun hReserved => absurd hReserved hReadable, fun _ => ?_⟩
    rw [hNext, readWindow_eq]
    by_cases hOff : off = 0x08
    · have hCode : s.err ≠ .reserved := fun hErr => hReadable ⟨hOff, hErr⟩
      simp only [if_pos hOff, setPending_toRegs, statusWord_eq hCode]
      rfl
    · simp only [if_neg hOff]
      rfl

/-! ### What a write stores -/

/-- The map of the window as it stores, offset by offset (20_memory.md R54, R56). -/
theorem writeWindow_eq (s : State) (off : Nat) (v : Word) :
    writeWindow s off v = { s with
      sbLen := if off = 0x10 then BitVec.ofNat 16 v.toNat else s.sbLen
      sb := ⟨if off = 0x20 then v else s.sb.w0, if off = 0x28 then v else s.sb.w1,
             if off = 0x30 then v else s.sb.w2, if off = 0x38 then v else s.sb.w3⟩ } := by
  unfold writeWindow
  generalize hReg : regAt off = r
  unfold regAt at hReg
  split at hReg <;> subst hReg
  case h_3 =>
    have hLow : v.extractLsb' 0 16 = BitVec.ofNat 16 v.toNat := by
      rw [BitVec.ofNat_toNat, BitVec.setWidth_eq_extractLsb' (by decide)]
    exact congrArg (fun n => { s with sbLen := n }) hLow
  case h_14 => simp (disch := assumption) only [if_neg]
  all_goals rfl

theorem step_write {s : State} {off : Nat} {v : Word} {rest : List Input} (h8 : off % 8 = 0) (hF : off ≤ 0xF8)
    (h : s.pending = .access (.write (s.params.coreBase + off) 8 v) :: rest) :
    step s = writeAccess off v ((s.setPending rest).respond .done) := by
  rw [step_of_pending h]
  simp only [perform, performAccess, Access.addr, Access.size, setPending_params, windowOffset_at h8 hF]

/-- Settles O8: the step is a well-formed write (`step_write`) away from `CMD`, which stores as `writeWindow_eq` says. -/
theorem writeStoresOnlyInTheSeedBuffer : Obligations.WriteStoresOnlyInTheSeedBuffer := by
  intro s off v rest h8 hF h0 hPending
  rw [step_write h8 hF hPending]
  obtain ⟨hCmd, -⟩ | ⟨-, hStore⟩ := writeAccess_cases off v ((s.setPending rest).respond .done)
  · exact absurd hCmd h0
  · rw [hStore, writeWindow_eq]
    rfl

end Sys2Proof.Machine
end

section
/-! SUPPORT. Byte sequences (00_scope.md R17, 20_memory.md R57) and the state transfers that carry them (40_seed_state.md R98, R99): `BE64` and
`Bytes64` as numbers, and the bytes a set command reads and a get command puts out. -/

namespace Sys2Proof.Machine

/-! ### `BE64` and `Bytes64` -/

theorem be64_toNat (b0 b1 b2 b3 b4 b5 b6 b7 : Byte) :
    (be64 b0 b1 b2 b3 b4 b5 b6 b7).toNat =
      ((((((b0.toNat * 256 + b1.toNat) * 256 + b2.toNat) * 256 + b3.toNat) * 256 + b4.toNat) * 256 + b5.toNat) * 256 +
        b6.toNat) * 256 + b7.toNat := by
  have hAppend {n : Nat} (x : BitVec n) (b : Byte) : (x ++ b).toNat = x.toNat * 256 + b.toNat := by
    rw [BitVec.toNat_append, ← Nat.shiftLeft_add_eq_or_of_lt b.isLt, Nat.shiftLeft_eq]
  simp only [be64, hAppend]

theorem wordByte_be64 (b0 b1 b2 b3 b4 b5 b6 b7 : Byte) (k : Nat) (h : k < 8) :
    wordByte (be64 b0 b1 b2 b3 b4 b5 b6 b7) k = [b0, b1, b2, b3, b4, b5, b6, b7].getD k 0 := by
  apply BitVec.eq_of_toNat_eq
  rw [wordByte_toNat, be64_toNat]
  have h0 := b0.isLt; have h1 := b1.isLt; have h2 := b2.isLt; have h3 := b3.isLt
  have h4 := b4.isLt; have h5 := b5.isLt; have h6 := b6.isLt; have h7 := b7.isLt
  interval_cases k <;> norm_num <;> omega

theorem be64_wordByte (w : Word) :
    be64 (wordByte w 0) (wordByte w 1) (wordByte w 2) (wordByte w 3) (wordByte w 4) (wordByte w 5) (wordByte w 6)
      (wordByte w 7) = w := by
  apply BitVec.eq_of_toNat_eq
  have h := w.isLt
  simp only [be64_toNat, wordByte_toNat]
  norm_num
  omega

/-- Settles O25: the number is `be64_toNat`, and each side of the inverse one of `wordByte_be64` and `be64_wordByte`. -/
theorem be64AndBytes64AreInverse : Obligations.Be64AndBytes64AreInverse := by
  refine ⟨fun b0 b1 b2 b3 b4 b5 b6 b7 => ⟨?_, be64_toNat ..⟩, be64_wordByte⟩
  simp [bytes64, wordByte_be64]

/-! ### State transfers -/

/-- The bytes of the first word of an array of four. -/
theorem quadByte_of_lt_eight (q : Quad) {k : Nat} (h : k < 8) : quadByte q k = wordByte q.w0 k := by
  rw [quadByte, Nat.div_eq_of_lt h]
  rfl

/-- After `PutState([w], 8)` the result buffer's sequence is the bytes of the word. -/
theorem resultBytes_putWord (s : State) (q : Quad) :
    resultBytes ((putWord s q.w0).setErr .ok) = (List.range 8).map (quadByte q) := by
  refine List.map_congr_left fun k hk => ?_
  rw [List.mem_range] at hk
  exact (quadByte_of_lt_eight _ hk).trans (quadByte_of_lt_eight q hk).symm

/-- Settles O22: a get puts the state and its minimum length where the set takes them from, and a set of the minimum length takes the
bytes the get puts out. -/
theorem stateRoundTrip : Obligations.StateRoundTrip := by
  intro s
  refine ⟨?_, ?_, ?_, fun hLen => ?_, fun hLen => ?_, fun hLen => ?_⟩
  · exact ⟨_, _, rfl, exec_of_enough (le_refl 8), rfl, rfl⟩
  · exact ⟨_, _, rfl, exec_of_enough (le_refl 8), rfl, rfl⟩
  · exact ⟨_, _, rfl, exec_of_enough (le_refl 32), rfl, rfl⟩
  · exact ⟨_, _, exec_of_enough (by rw [hLen]; decide), rfl, resultBytes_putWord _ s.sb⟩
  · exact ⟨_, _, exec_of_enough (by rw [hLen]; decide), rfl, resultBytes_putWord _ s.sb⟩
  · exact ⟨_, _, exec_of_enough (by rw [hLen]; decide), rfl, rfl⟩

end Sys2Proof.Machine
end

section
/-! SUPPORT. Host programs (30_encoding.md section 4): a run over the reads and the writes of a statement, and from it what `SEEDB` and
`COPYSTATE` leave. -/

namespace Sys2Proof.Machine

/-! ### Runs of a host program's transactions -/

theorem regOffset_wf (r : Reg) : regOffset r % 8 = 0 ∧ regOffset r ≤ 0xF8 := by
  cases r with
  | sb i => fin_cases i <;> decide
  | rb i => fin_cases i <;> decide
  | _ => decide

/-- A read of a register other than `STATUS`, as a host program makes it (30_encoding.md R78). -/
theorem step_rdAccess {s : State} {r : Reg} {rest : List Input} (hr : r ≠ .status)
    (h : s.pending = .access (rdAccess s.params r) :: rest) :
    step s = .next ((s.setPending rest).respond (.data (readReg s r))) := by
  have hWindow := regOffset_wf r
  rw [step_read hWindow.1 hWindow.2 h]
  obtain ⟨hStatus, -⟩ | ⟨-, hNext⟩ := readAccess_cases (regOffset r) (s.setPending rest)
  · rw [regAt_regOffset] at hStatus
    exact absurd (Option.some.inj hStatus) hr
  · rw [hNext, readWindow, regAt_regOffset]
    rfl

/-- A write of a register other than `CMD`, as a host program makes it (30_encoding.md R78). -/
theorem step_wrAccess {s : State} {r : Reg} {v : Word} {rest : List Input} (hr : r ≠ .cmd)
    (h : s.pending = .access (wrAccess s.params r v) :: rest) :
    step s = .next (writeReg ((s.setPending rest).respond .done) r v) := by
  have hWindow := regOffset_wf r
  rw [step_write hWindow.1 hWindow.2 h]
  obtain ⟨hCmd, -⟩ | ⟨-, hStore⟩ := writeAccess_cases (regOffset r) v ((s.setPending rest).respond .done)
  · rw [← regAt_eq_cmd_iff, regAt_regOffset] at hCmd
    exact absurd (Option.some.inj hCmd) hr
  · rw [hStore, writeWindow, regAt_regOffset]

/-- The state with some inputs taken and answered. -/
def State.answered (s : State) (rest : List Input) (answers : List Response) : State :=
  { s with pending := rest, responses := s.responses ++ answers }

/-- The writes of a host program, one after another. -/
def writeRegs (s : State) (writes : List (Reg × Word)) : State := writes.foldl (fun t w => writeReg t w.1 w.2) s

/-- A run over reads answers the registers and changes none (20_memory.md R55). -/
theorem run_reads (regs : List Reg) (rest : List Input) (k : Nat) : ∀ s : State, (∀ r ∈ regs, r ≠ .status) →
    s.pending = (regs.map fun r => .access (rdAccess s.params r)) ++ rest →
      Sys2Proof.core.run (regs.length + k) s =
        Sys2Proof.core.run k (s.answered rest (regs.map fun r => .data (readReg s r))) := by
  induction regs with
  | nil =>
    intro s _ hPending
    rw [List.length_nil, Nat.zero_add, State.answered, List.map_nil, List.append_nil, ← show s.pending = rest from hPending]
  | cons r regs ih =>
    intro s hStatus hPending
    rw [List.forall_mem_cons] at hStatus
    obtain ⟨hFirst, hRegs⟩ := hStatus
    rw [List.length_cons, Nat.add_right_comm, core_run_succ _ (step_rdAccess hFirst hPending), ih _ hRegs rfl]
    simp only [State.answered, respond_responses, List.append_assoc]
    rfl

theorem writeReg_answered (s : State) (r : Reg) (v : Word) (rest : List Input) (answers : List Response) :
    (writeReg s r v).answered rest answers = writeReg (s.answered rest answers) r v := by
  cases r <;> rfl

/-- A run over writes away from `CMD` makes them one after another. -/
theorem run_writes (writes : List (Reg × Word)) (rest : List Input) (k : Nat) : ∀ s : State, (∀ w ∈ writes, w.1 ≠ .cmd) →
    s.pending = (writes.map fun w => .access (wrAccess s.params w.1 w.2)) ++ rest →
      Sys2Proof.core.run (writes.length + k) s =
        Sys2Proof.core.run k (writeRegs (s.answered rest (writes.map fun _ => .done)) writes) := by
  induction writes with
  | nil =>
    intro s _ hPending
    rw [List.length_nil, Nat.zero_add, State.answered, List.map_nil, List.append_nil, ← show s.pending = rest from hPending]
    rfl
  | cons w writes ih =>
    intro s hCmd hPending
    rw [List.forall_mem_cons] at hCmd
    obtain ⟨hFirst, hWrites⟩ := hCmd
    rw [List.length_cons, Nat.add_right_comm, core_run_succ _ (step_wrAccess hFirst hPending),
      ih _ hWrites (by rw [writeReg_frame]; rfl), writeReg_answered]
    simp only [State.answered, respond_responses, List.append_assoc]
    rfl

/-! ### `COPYSTATE` -/

theorem extractLsb'_setWidth_rbLen (n : BitVec 6) : (n.setWidth 64).extractLsb' 0 16 = n.setWidth 16 := by
  rw [← BitVec.setWidth_eq_extractLsb' (by decide), BitVec.setWidth_setWidth_of_le _ (by decide)]

/-- The registers that `COPYSTATE` reads. -/
def copystateReads : List Reg := [.rblen, .rb 0, .rb 1, .rb 2, .rb 3]

/-- The writes of `COPYSTATE`, of the values its reads answer. -/
def copystateWrites (s : State) : List (Reg × Word) :=
  [(.sb 0, s.rb.w0), (.sb 1, s.rb.w1), (.sb 2, s.rb.w2), (.sb 3, s.rb.w3), (.sblen, s.rbLen.setWidth 64)]

theorem expandStmt_copystate (s : State) :
    expandStmt s.params (readReg s) .copystate =
      copystateReads.map (rdAccess s.params) ++ (copystateWrites s).map fun w => wrAccess s.params w.1 w.2 := rfl

/-- Writes of the four words of `SB` in order leave the four, whatever stood there. -/
theorem setSb_four (s : State) (w0 w1 w2 w3 : Word) :
    (((s.setSb 0 w0).setSb 1 w1).setSb 2 w2).setSb 3 w3 = { s with sb := ⟨w0, w1, w2, w3⟩ } := by
  simp only [setSb_eq, quadSet]

theorem writeRegs_copystateWrites (s t : State) :
    writeRegs t (copystateWrites s) = { t with sb := s.rb, sbLen := s.rbLen.setWidth 16 } := by
  simp only [writeRegs, copystateWrites, List.foldl_cons, List.foldl_nil, writeReg, setSb_four, setSbLen_eq,
    extractLsb'_setWidth_rbLen]

/-- Settles O27: five reads (`run_reads`), then writes of the values they answered (`run_writes`). -/
theorem copystateCopiesTheResultBuffer : Obligations.CopystateCopiesTheResultBuffer := by
  intro s hPending
  rw [expandStmt_copystate, List.map_append, List.map_map, List.map_map] at hPending
  refine (run_reads copystateReads _ 5 s (by decide) hPending).trans ?_
  refine (run_writes (copystateWrites s) [] 0 _ (by simp [copystateWrites]) (List.append_nil _).symm).trans ?_
  rw [writeRegs_copystateWrites]
  simp only [Host.Core.run, State.answered, List.append_assoc]
  rfl

/-! ### `SEEDB` -/

/-- The writes of `SEEDB` to word `i`, made where the sequence has bytes for it. -/
def seedbWordWrites (bytes : List Byte) (i : Fin 4) : List (Reg × Word) :=
  if 8 * i.val < bytes.length then [(.sb i, packWord bytes i.val)] else []

/-- The writes of `SEEDB`. -/
def seedbWrites (bytes : List Byte) : List (Reg × Word) :=
  seedbWordWrites bytes 0 ++ seedbWordWrites bytes 1 ++ seedbWordWrites bytes 2 ++ seedbWordWrites bytes 3 ++
    [(.sblen, BitVec.ofNat 64 (min bytes.length 65535))]

theorem map_seedbWordWrites (p : Params) (bytes : List Byte) (i : Fin 4) :
    (seedbWordWrites bytes i).map (fun w => wrAccess p w.1 w.2) = seedbWord p bytes i := by
  unfold seedbWordWrites seedbWord
  split <;> rfl

theorem expandStmt_seedb (p : Params) (got : Reg → Word) (bytes : List Byte) :
    expandStmt p got (.seedb bytes) = (seedbWrites bytes).map fun w => wrAccess p w.1 w.2 := by
  simp only [expandStmt, seedbWrites, List.map_append, map_seedbWordWrites]
  rfl

theorem writeRegs_append (s : State) (l m : List (Reg × Word)) : writeRegs s (l ++ m) = writeRegs (writeRegs s l) m :=
  List.foldl_append

theorem writeRegs_singleton (s : State) (r : Reg) (v : Word) : writeRegs s [(r, v)] = writeReg s r v := rfl

theorem writeRegs_seedbWordWrites (s : State) (bytes : List Byte) (i : Fin 4) :
    writeRegs s (seedbWordWrites bytes i) =
      s.setSb i (if 8 * i.val < bytes.length then packWord bytes i.val else quadWord s.sb i) := by
  unfold seedbWordWrites
  split
  · rfl
  · fin_cases i <;> rfl

/-- What all the writes of `SEEDB` leave. -/
theorem writeRegs_seedbWrites (s : State) (bytes : List Byte) :
    writeRegs s (seedbWrites bytes) = { s with
      sb := ⟨if 0 < bytes.length then packWord bytes 0 else s.sb.w0, if 8 < bytes.length then packWord bytes 1 else s.sb.w1,
             if 16 < bytes.length then packWord bytes 2 else s.sb.w2, if 24 < bytes.length then packWord bytes 3 else s.sb.w3⟩
      sbLen := (BitVec.ofNat 64 (min bytes.length 65535)).extractLsb' 0 16 } := by
  simp only [seedbWrites, writeRegs_append, writeRegs_seedbWordWrites, quadWord, setSb_sb, quadSet, setSb_four,
    writeRegs_singleton, writeReg, setSbLen_eq]
  rfl

theorem wordByte_mod_eight (w : Word) (k : Nat) : wordByte w (k % 8) = wordByte w k := by
  rw [wordByte, wordByte, Nat.mod_mod]

/-- A word that `SEEDB` packs holds the bytes of its place (30_encoding.md R79). -/
theorem wordByte_packWord (bytes : List Byte) (i : Nat) {j : Nat} (h : j < 8) :
    wordByte (packWord bytes i) j = bytes.getD (8 * i + j) 0 := by
  rw [packWord, wordByte_be64 _ _ _ _ _ _ _ _ j h]
  interval_cases j <;> rfl

/-- Byte `k` of the seed buffer after the writes of `SEEDB` is byte `k` of the sequence. -/
theorem seedByte_writeRegs_seedbWrites (s : State) (bytes : List Byte) {k : Nat} (h32 : k < 32) (h : k < bytes.length) :
    seedByte (writeRegs s (seedbWrites bytes)) k = bytes[k] := by
  have hPlace : 8 * (k / 8) < bytes.length := by omega
  have hWord : quadWord (writeRegs s (seedbWrites bytes)).sb (Fin.ofNat 4 (k / 8)) = packWord bytes (k / 8) := by
    rw [writeRegs_seedbWrites]
    have hi : k / 8 < 4 := by omega
    generalize k / 8 = i at hi hPlace
    interval_cases i <;> exact if_pos hPlace
  rw [seedByte, quadByte, hWord, ← wordByte_mod_eight, wordByte_packWord _ _ (Nat.mod_lt k (by decide)), Nat.div_add_mod,
    List.getD_eq_getElem _ _ h]

/-- `SEEDB` never writes `CMD`. -/
theorem seedbWrites_ne_cmd (bytes : List Byte) : ∀ w ∈ seedbWrites bytes, w.1 ≠ .cmd := by
  have hWord (i : Fin 4) : ∀ w ∈ seedbWordWrites bytes i, w.1 ≠ .cmd := by
    unfold seedbWordWrites
    split <;> simp
  simp only [seedbWrites, List.forall_mem_append, List.forall_mem_singleton]
  exact ⟨⟨⟨⟨hWord 0, hWord 1⟩, hWord 2⟩, hWord 3⟩, nofun⟩

/-- The length that `SEEDB` loads, which the 16 bits of `SBLEN` hold. -/
theorem extractLsb'_min_length (n : Nat) : ((BitVec.ofNat 64 (min n 65535)).extractLsb' 0 16).toNat = min n 65535 := by
  rw [BitVec.extractLsb'_toNat, BitVec.toNat_ofNat, Nat.shiftRight_zero]
  omega

/-- Settles O26: the run makes the writes (`run_writes`), which leave the bytes (`seedByte_writeRegs_seedbWrites`) and the length, and
no other register (`writeRegs_seedbWrites`). -/
theorem seedbLoadsTheByteSequence : Obligations.SeedbLoadsTheByteSequence := by
  intro s bytes got hPending
  rw [expandStmt_seedb, List.map_map] at hPending
  have hRun := run_writes (seedbWrites bytes) [] 0 s (seedbWrites_ne_cmd bytes) (hPending.trans (List.append_nil _).symm)
  refine ⟨writeRegs (s.answered [] ((seedbWrites bytes).map fun _ => .done)) (seedbWrites bytes), ?_, ?_, ?_, ?_, ?_⟩
  · rw [hPending, List.length_map]
    exact hRun
  · rw [writeRegs_seedbWrites]
    rfl
  · rw [writeRegs_seedbWrites]
    exact extractLsb'_min_length bytes.length
  · intro k h32 h
    rw [seedByte_writeRegs_seedbWrites _ _ h32 h, List.getElem?_eq_getElem h]
  · rw [writeRegs_seedbWrites]
    exact ⟨⟨rfl, rfl, rfl, rfl⟩, rfl, rfl, rfl⟩

end Sys2Proof.Machine
end

section
/-! SUPPORT. The multiplier-adder on the whole 64-bit range (41_lcg64.md section 2, 42_pcg.md section 2): its iterates, whose period is
`2^64`, its inverse, and what `LCG.GEN64` and the PCG commands make of them. -/

namespace Sys2Proof.Machine

/-! ### The period -/

/-- The multiplier less 1, `4` times an odd number. -/
def lcgMulPred : Nat := 6364136223846793004

/-- The sum of the first `n` powers of the multiplier. -/
def mulPowerSum (n : Nat) : Nat := ∑ k ∈ Finset.range n, (lcgMulPred + 1) ^ k

/-- The advance as a step on numbers, not reduced. -/
def lcgNat (m : Nat) : Nat := 1442695040888963407 + (lcgMulPred + 1) * m

/-- The iterates in closed form: what `n` steps add is the power sum times what one step adds. -/
theorem iterate_lcgNat (n m : Nat) : lcgNat^[n] m = m + mulPowerSum n * (lcgMulPred * m + 1442695040888963407) := by
  induction n with
  | zero => simp [mulPowerSum]
  | succ n ih =>
    have hSum : mulPowerSum (n + 1) = (lcgMulPred + 1) * mulPowerSum n + 1 := geom_sum_succ
    rw [Function.iterate_succ_apply', ih, hSum, lcgNat]
    ring

theorem iterate_lcgAdvance_ofNat (n m : Nat) : lcgAdvance^[n] (BitVec.ofNat 64 m) = BitVec.ofNat 64 (lcgNat^[n] m) := by
  have hStep : Function.Semiconj (BitVec.ofNat 64) lcgNat lcgAdvance := ofNat_lcgAdvance
  exact (hStep.iterate_right n m).symm

/-- The power sum holds exactly as many factors 2 as `n`: the multiplier is 1 modulo 4, so a power of it less 1 holds as many more as
its exponent does. -/
theorem emultiplicity_mulPowerSum (n : Nat) : emultiplicity 2 (mulPowerSum n) = emultiplicity 2 n := by
  have hGeom : (mulPowerSum n : ℤ) * lcgMulPred = (lcgMulPred + 1 : ℤ) ^ n - 1 ^ n := by
    have h := geom_sum_mul (lcgMulPred + 1 : ℤ) n
    rw [add_sub_cancel_right] at h
    rw [one_pow, ← h, mulPowerSum]
    push_cast
    rfl
  have hLift := Int.two_pow_sub_pow' (x := lcgMulPred + 1) (y := 1) n (by decide) (by decide)
  rw [← hGeom, emultiplicity_mul Int.prime_two, add_sub_cancel_right, add_comm] at hLift
  have hFinite : emultiplicity (2 : ℤ) lcgMulPred ≠ ⊤ :=
    finiteMultiplicity_iff_emultiplicity_ne_top.mp (Int.finiteMultiplicity_iff.mpr ⟨by decide, by decide⟩)
  rw [← Int.natCast_emultiplicity, ← Int.natCast_emultiplicity]
  exact ENat.add_right_injective_of_ne_top hFinite hLift

theorem two_pow_dvd_mulPowerSum_iff (k n : Nat) : 2 ^ k ∣ mulPowerSum n ↔ 2 ^ k ∣ n := by
  rw [pow_dvd_iff_le_emultiplicity, pow_dvd_iff_le_emultiplicity, emultiplicity_mulPowerSum]

/-- The advance has full period: what one step adds is odd, so `2^64` divides what `n` steps add exactly where it divides the power
sum. -/
theorem iterate_lcgAdvance_eq_self_iff (n : Nat) (x : Word) : lcgAdvance^[n] x = x ↔ 2 ^ 64 ∣ n := by
  have hx : x = BitVec.ofNat 64 x.toNat := by rw [BitVec.ofNat_toNat, BitVec.setWidth_eq]
  have hOdd : Nat.Coprime (2 ^ 64) (lcgMulPred * x.toNat + 1442695040888963407) := by
    refine Nat.Coprime.pow_left 64 (Nat.coprime_two_left.mpr ?_)
    exact Even.add_odd (Even.mul_right (by decide) _) (by decide)
  calc lcgAdvance^[n] x = x
      ↔ BitVec.ofNat 64 (x.toNat + mulPowerSum n * (lcgMulPred * x.toNat + 1442695040888963407)) = BitVec.ofNat 64 x.toNat := by
        rw [← iterate_lcgNat, ← iterate_lcgAdvance_ofNat, ← hx]
    _ ↔ 2 ^ 64 ∣ mulPowerSum n * (lcgMulPred * x.toNat + 1442695040888963407) := by
        rw [← BitVec.toNat_inj, BitVec.toNat_ofNat, BitVec.toNat_ofNat]
        exact Nat.add_modEq_left_iff
    _ ↔ 2 ^ 64 ∣ mulPowerSum n := ⟨hOdd.dvd_of_dvd_mul_right, fun h => h.mul_right _⟩
    _ ↔ 2 ^ 64 ∣ n := two_pow_dvd_mulPowerSum_iff 64 n

theorem runCommands_replicate (i : Instr) (n : Nat) (s : State) :
    runCommands (List.replicate n i) s = .next ((commandResult i)^[n] s) := by
  induction n generalizing s with
  | zero => rfl
  | succ n ih => rw [List.replicate_succ, runCommands, exec_eq_next, Function.iterate_succ_apply]; exact ih _

theorem iterate_lcgGen64_lcgS (n : Nat) (s : State) : ((commandResult .lcgGen64)^[n] s).lcgS = lcgAdvance^[n] s.lcgS :=
  Function.Semiconj.iterate_right (f := fun t : State => t.lcgS) (fun _ => rfl) n s

/-- Settles O33: `n` commands make `n` advances (`iterate_lcgGen64_lcgS`), which come back as `iterate_lcgAdvance_eq_self_iff` says, and
the last result is the state it leaves. -/
theorem lcgHasFullPeriod : Obligations.LcgHasFullPeriod := by
  intro s n
  refine ⟨_, runCommands_replicate .lcgGen64 n s, ?_, fun hPos => ?_⟩
  · rw [iterate_lcgGen64_lcgS, iterate_lcgAdvance_eq_self_iff]
  · obtain ⟨k, rfl⟩ := Nat.exists_eq_succ_of_ne_zero hPos.ne'
    rw [Function.iterate_succ_apply']
    rfl

/-- An odd multiplier and an odd increment change the lowest bit at every advance (41_lcg64.md section 1). -/
theorem lcgAdvance_getLsbD_zero (x : Word) : (lcgAdvance x).getLsbD 0 = !x.getLsbD 0 := by
  have hLow : (lcgAdvance x).toNat % 2 = (1 + x.toNat) % 2 := by
    rw [lcgAdvance_toNat, Nat.mod_mod_of_dvd _ (dvd_pow_self 2 (by decide)), Nat.add_mod, Nat.mul_mod]
    simp
  have hOdd : (lcgAdvance x).toNat % 2 = 1 ↔ ¬ x.toNat % 2 = 1 := by
    rw [hLow]
    omega
  simp only [BitVec.getLsbD, Nat.testBit_zero, hOdd, decide_not]

/-- Settles O34: the result is the advanced state, and both advances change bit 0. -/
theorem lcgBitZeroAlternates : Obligations.LcgBitZeroAlternates :=
  fun s => ⟨_, _, exec_lcgGen64 s, exec_lcgGen64 _, lcgAdvance_getLsbD_zero _, lcgAdvance_getLsbD_zero _⟩

/-! ### PCG -/

/-- Settles O41: both leave the second advance, and the joined result is `append_eq_ofNat`. -/
theorem pcgGen64IsTwoGen32 : Obligations.PcgGen64IsTwoGen32 := by
  intro s
  refine ⟨_, _, _, exec_pcgGen32 s, exec_pcgGen32 _, exec_pcgGen64 s, rfl, ?_⟩
  rw [append_eq_ofNat]
  simp only [BitVec.toNat_setWidth, BitVec.toNat_ofNat]
  omega

/-- The inverse of the multiplier modulo `2^64`. -/
def lcgMulInverse : Word := 0xC097EF87329E28A5

theorem lcgMulInverse_mul : lcgMulInverse * Config.lcgMul = 1#64 := by decide

/-- The advance can be undone: it is a bijection of the 64-bit words. -/
theorem lcgAdvance_eq_iff (x y : Word) : lcgAdvance x = y ↔ x = lcgMulInverse * (y - Config.lcgInc) := by
  constructor
  · rintro rfl
    rw [lcgAdvance_eq, BitVec.add_sub_cancel, BitVec.mul_comm x, ← BitVec.mul_assoc, lcgMulInverse_mul, BitVec.one_mul]
  · rintro rfl
    rw [lcgAdvance, ← BitVec.mul_assoc, BitVec.mul_comm Config.lcgMul, lcgMulInverse_mul, BitVec.one_mul, BitVec.add_comm,
      BitVec.sub_add_cancel]

/-- What `PCG.SEED` leaves of a seed word put in `SB[0]` (42_pcg.md R131). -/
theorem exec_pcgSeed_seedWord (s : State) (w : Word) (h : 8 ≤ s.sbLen.toNat) :
    ∃ t, exec .pcgSeed { s with sb := { s.sb with w0 := w } } = .next t ∧ t.pcgS = lcgAdvance (w + Config.lcgInc) := by
  rw [BitVec.add_comm]
  exact ⟨_, exec_of_enough h, rfl⟩

/-- Settles O42: the one word is the increment less than the one state that advances to the target. -/
theorem pcgSeedIsABijection : Obligations.PcgSeedIsABijection := by
  intro s target hLen
  have hSeed (w : Word) : lcgAdvance (w + Config.lcgInc) = target ↔
      w = lcgMulInverse * (target - Config.lcgInc) - Config.lcgInc := by
    rw [lcgAdvance_eq_iff, BitVec.eq_sub_iff_add_eq]
  refine ⟨_, ?_, fun w' t hExec hTarget => (hSeed w').mp ?_⟩
  · obtain ⟨t, hExec, hPcg⟩ := exec_pcgSeed_seedWord s (lcgMulInverse * (target - Config.lcgInc) - Config.lcgInc) hLen
    exact ⟨t, hExec, hPcg.trans ((hSeed _).mpr rfl)⟩
  · obtain ⟨u, hExec', hPcg⟩ := exec_pcgSeed_seedWord s w' hLen
    cases hExec.symm.trans hExec'
    exact hPcg.symm.trans hTarget

/-- Settles O21: the two loads are one and the same on three engines, and on PCG the seed alone is advanced. -/
theorem seedEqualsSetstExceptOnPcg : Obligations.SeedEqualsSetstExceptOnPcg :=
  ⟨fun _ => ⟨rfl, rfl, rfl⟩, fun _ hLen => ⟨_, _, exec_of_enough hLen, exec_of_enough hLen, rfl, rfl⟩⟩

end Sys2Proof.Machine
end

section
/-! SUPPORT. The Xoshiro step as a linear map (43_xoshiro.md section 3): exclusive or of arrays, the powers of the step, and the polynomial of
the step that a jump evaluates. From them what `XOS.JUMP`, `XOS.LJUMP` and `XOS.SPLIT` leave. -/

namespace Sys2Proof.Machine

/-! ### Arrays under exclusive or -/

theorem quadXor_comm (a b : Quad) : quadXor a b = quadXor b a := by
  simp only [quadXor, BitVec.xor_comm]

theorem quadXor_assoc (a b c : Quad) : quadXor (quadXor a b) c = quadXor a (quadXor b c) := by
  simp only [quadXor, BitVec.xor_assoc]

theorem quadXor_swap (a b c d : Quad) :
    quadXor (quadXor a b) (quadXor c d) = quadXor (quadXor a c) (quadXor b d) := by
  rw [quadXor_assoc, ← quadXor_assoc b, quadXor_comm b, quadXor_assoc c, ← quadXor_assoc]

@[simp] theorem quadXor_zero (a : Quad) : quadXor a Quad.zero = a := by
  simp only [quadXor, Quad.zero, BitVec.ofNat_eq_ofNat, BitVec.xor_zero]

@[simp] theorem zero_quadXor (a : Quad) : quadXor Quad.zero a = a := by
  rw [quadXor_comm, quadXor_zero]

@[simp] theorem quadXor_self (a : Quad) : quadXor a a = Quad.zero := by
  simp only [quadXor, Quad.zero, BitVec.ofNat_eq_ofNat, BitVec.xor_self]

/-! ### The step and its powers -/

/-- The step of the array, `T` (R151). -/
def xosT (q : Quad) : Quad := (xosStep q).2

theorem xosT_eq (q : Quad) :
    xosT q = ⟨q.w0 ^^^ q.w1 ^^^ q.w3, q.w0 ^^^ q.w1 ^^^ q.w2, q.w0 ^^^ q.w2 ^^^ (q.w1 <<< 17), (q.w1 ^^^ q.w3).rotateLeft 45⟩ :=
  xosStep_snd q

theorem rotateLeft_xor (x y : Word) (k : Nat) : (x ^^^ y).rotateLeft k = x.rotateLeft k ^^^ y.rotateLeft k := by
  apply BitVec.eq_of_getElem_eq
  intro i hi
  simp only [BitVec.getElem_rotateLeft, BitVec.getElem_xor]
  split <;> rfl

theorem xor_xor_xor_swap (a b c d : Word) : (a ^^^ b) ^^^ (c ^^^ d) = (a ^^^ c) ^^^ (b ^^^ d) := by
  ac_rfl

/-- The step is linear: it moves, shifts and rotates bits and takes exclusive ors. -/
theorem xosT_quadXor (a b : Quad) : xosT (quadXor a b) = quadXor (xosT a) (xosT b) := by
  simp only [xosT_eq, quadXor, Quad.mk.injEq, BitVec.shiftLeft_xor_distrib, ← rotateLeft_xor]
  refine ⟨?_, ?_, ?_, ?_⟩
  · rw [xor_xor_xor_swap a.w0, xor_xor_xor_swap]
  · rw [xor_xor_xor_swap a.w0, xor_xor_xor_swap]
  · rw [xor_xor_xor_swap a.w0, xor_xor_xor_swap]
  · rw [xor_xor_xor_swap]

theorem xosT_zero : xosT Quad.zero = Quad.zero := by decide

theorem xosPower_succ (n : Nat) (q : Quad) : xosPower (n + 1) q = xosT (xosPower n q) := Function.iterate_succ_apply' ..

theorem xosPower_succ' (n : Nat) (q : Quad) : xosPower (n + 1) q = xosPower n (xosT q) := Function.iterate_succ_apply ..

theorem xosPower_quadXor (n : Nat) (a b : Quad) :
    xosPower n (quadXor a b) = quadXor (xosPower n a) (xosPower n b) := by
  induction n with
  | zero => rfl
  | succ n ih => simp only [xosPower_succ, ih, xosT_quadXor]

/-! ### The polynomial of the step -/

/-- Term `k` of a polynomial of the step, its coefficients the bits of a number, applied to an array. -/
def polyTerm (p k : Nat) (q : Quad) : Quad := if p.testBit k then xosPower k q else Quad.zero

/-- The terms below `n` of a polynomial of the step, applied to an array: `polyEval` cut off at `n`. -/
def polySum (n p : Nat) (q : Quad) : Quad :=
  (List.range n).foldl (fun acc k => if p.testBit k then quadXor acc (xosPower k q) else acc) Quad.zero

theorem polyEval_eq_polySum (p q : Quad) : polyEval p q = polySum 256 (polyNat p) q := rfl

theorem polySum_zero (p : Nat) (q : Quad) : polySum 0 p q = Quad.zero := rfl

theorem polySum_succ (n p : Nat) (q : Quad) : polySum (n + 1) p q = quadXor (polySum n p q) (polyTerm p n q) := by
  rw [polySum, List.range_succ, List.foldl_append, List.foldl_cons, List.foldl_nil, ← polySum, polyTerm]
  split
  · rfl
  · rw [quadXor_zero]

theorem polyTerm_quadXor (p k : Nat) (a b : Quad) :
    polyTerm p k (quadXor a b) = quadXor (polyTerm p k a) (polyTerm p k b) := by
  unfold polyTerm
  split
  · exact xosPower_quadXor k a b
  · rw [quadXor_zero]

theorem polyTerm_xosT (p k : Nat) (q : Quad) : polyTerm p k (xosT q) = xosT (polyTerm p k q) := by
  unfold polyTerm
  split
  · rw [← xosPower_succ', xosPower_succ]
  · rw [xosT_zero]

theorem polySum_quadXor (n p : Nat) (a b : Quad) :
    polySum n p (quadXor a b) = quadXor (polySum n p a) (polySum n p b) := by
  induction n with
  | zero => rw [polySum_zero, polySum_zero, polySum_zero, quadXor_zero]
  | succ n ih => rw [polySum_succ, polySum_succ, polySum_succ, ih, polyTerm_quadXor, quadXor_swap]

/-- A polynomial of the step commutes with the step. -/
theorem polySum_xosT (n p : Nat) (q : Quad) : polySum n p (xosT q) = xosT (polySum n p q) := by
  induction n with
  | zero => rw [polySum_zero, polySum_zero, xosT_zero]
  | succ n ih => rw [polySum_succ, polySum_succ, ih, polyTerm_xosT, xosT_quadXor]

theorem polySum_quad_zero (n p : Nat) : polySum n p Quad.zero = Quad.zero := by
  have h := polySum_quadXor n p Quad.zero Quad.zero
  rwa [quadXor_self, quadXor_self] at h

theorem polyEval_xosStep (p q : Quad) : polyEval p (xosStep q).2 = (xosStep (polyEval p q)).2 := by
  rw [polyEval_eq_polySum, polyEval_eq_polySum]
  exact polySum_xosT 256 (polyNat p) q

/-! ### The jump -/

/-- A coefficient of a jump polynomial is a bit of its number (00_scope.md R13). -/
theorem polyBit_eq_testBit (p : Quad) {k : Nat} (h : k < 256) : polyBit p k = (polyNat p).testBit k := by
  have hNat : polyNat p = 2 ^ 64 * (2 ^ 64 * (2 ^ 64 * p.w3.toNat + p.w2.toNat) + p.w1.toNat) + p.w0.toNat := by
    rw [polyNat]
    ring
  rw [polyBit, quadWord_eq_getD p (by omega : k / 64 < 4), hNat, Nat.testBit_two_pow_mul_add _ p.w0.isLt,
    Nat.testBit_two_pow_mul_add _ p.w1.isLt, Nat.testBit_two_pow_mul_add _ p.w2.isLt]
  obtain ⟨i, j, hj, rfl⟩ : ∃ i j, j < 64 ∧ k = 64 * i + j := ⟨k / 64, k % 64, Nat.mod_lt _ (by decide), (Nat.div_add_mod ..).symm⟩
  have hDiv : (64 * i + j) / 64 = i := by omega
  have hMod : (64 * i + j) % 64 = j := by omega
  rw [hDiv, hMod]
  have hi : i < 4 := by omega
  interval_cases i
  · rw [if_pos (by omega), show 64 * 0 + j = j by omega]
    rfl
  · rw [if_neg (by omega), if_pos (by omega), show 64 * 1 + j - 64 = j by omega]
    rfl
  · rw [if_neg (by omega), if_neg (by omega), if_pos (by omega), show 64 * 2 + j - 64 - 64 = j by omega]
    rfl
  · rw [if_neg (by omega), if_neg (by omega), if_neg (by omega), show 64 * 3 + j - 64 - 64 - 64 = j by omega]
    rfl

/-- The accumulator after `n` passes is the first `n` terms of the polynomial (R155). -/
theorem jumpPasses_xa (poly q : Quad) (j : BitVec 9) {n : Nat} (h : n ≤ 256) :
    (jumpPasses poly n ⟨q, Quad.zero, j⟩).xa = polySum n (polyNat poly) q := by
  induction n with
  | zero => rfl
  | succ n ih =>
    rw [jumpPasses_xa_succ, polySum_succ, ih (by omega), polyBit_eq_testBit poly (by omega), jumpPasses_xw, polyTerm]
    split
    · rfl
    · rw [quadXor_zero]

/-- What the jump unit leaves: the array 256 steps on, and the polynomial of the step applied to it (R155). -/
theorem xorJump_eq_polyEval (poly q : Quad) (j : BitVec 9) :
    xorJump poly q j = ⟨xosPower 256 q, polyEval poly q, 256⟩ := by
  rw [xorJump_eq, jumpPasses_xa poly q j le_rfl]
  rfl

theorem exec_xosJump (s : State) :
    exec .xosJump s = .next { s with
      xs := polyEval s.params.jumpPoly s.xs
      xw := xosPower 256 s.xs
      xa := polyEval s.params.jumpPoly s.xs
      xj := 256
      err := .ok } := by
  rw [exec_of_minLen_zero s rfl, commandEffect, xorJump_eq_polyEval, setJumpUnit_eq, setXs_eq, setErr_eq]

theorem exec_xosLjump (s : State) :
    exec .xosLjump s = .next { s with
      xs := polyEval s.params.longJumpPoly s.xs
      xw := xosPower 256 s.xs
      xa := polyEval s.params.longJumpPoly s.xs
      xj := 256
      err := .ok } := by
  rw [exec_of_minLen_zero s rfl, commandEffect, xorJump_eq_polyEval, setJumpUnit_eq, setXs_eq, setErr_eq]

/-- Settles O47: what the loop leaves is `xorJump_eq_polyEval`, and both commands put its accumulator in `XS`. -/
theorem xosJumpsEvaluateTheirPolynomial : Obligations.XosJumpsEvaluateTheirPolynomial :=
  fun s => ⟨exec_xosJump s, exec_xosLjump s⟩

/-- Settles O49: a jump is a polynomial of the step, which commutes with the step. -/
theorem xosJumpCommutesWithAStep : Obligations.XosJumpCommutesWithAStep := by
  intro s
  refine ⟨_, _, _, _, exec_xosJump s, exec_xosGen64 _, exec_xosGen64 s, exec_xosJump _, ?_⟩
  dsimp only
  rw [polyEval_xosStep]

/-- Settles O48: the split is `PutState` of the child (40_seed_state.md R98), the hidden registers taking what the loop left. -/
theorem xosSplitPutsTheJumpedChildInTheResultBuffer : Obligations.XosSplitPutsTheJumpedChildInTheResultBuffer :=
  ⟨(decode_eq_ok_iff _ _).mpr rfl, fun _ => rfl⟩

/-- Settles O60: split and jump run the same loop, and `XOS.SETST` takes the 32 bytes that the split put out. -/
theorem xosSplitChildIsTheJumpedState : Obligations.XosSplitChildIsTheJumpedState :=
  fun _ => ⟨_, _, _, rfl, rfl, rfl, rfl, exec_of_enough (le_refl 32), rfl, rfl⟩

end Sys2Proof.Machine
end

section
/-! SUPPORT. The distance of a jump (00_scope.md R13, 43_xoshiro.md section 3). The characteristic polynomial of the step annihilates it, which
needs checking on 64 arrays only; so a power of the step is a polynomial below degree 256, and squaring such polynomials 128 and 192
times gives the default jump polynomials. -/

namespace Sys2Proof.Machine

/-! ### Arrays from single bits -/

/-- What holds of the single bits and of exclusive ors holds of every word. -/
theorem word_induction {P : Word → Prop} (zero : P 0) (xor : ∀ a b, P a → P b → P (a ^^^ b))
    (bit : ∀ j < 64, P (BitVec.twoPow 64 j)) (a : Word) : P a := by
  suffices h : ∀ n ≤ 64, ∀ a : Word, (∀ i, n ≤ i → a.getLsbD i = false) → P a from
    h 64 le_rfl a fun i hi => a.getLsbD_of_ge i hi
  intro n
  induction n with
  | zero =>
    intro _ a ha
    rwa [BitVec.eq_of_getLsbD_eq fun i _ => (ha i (Nat.zero_le i)).trans BitVec.getLsbD_zero.symm]
  | succ n ih =>
    intro hn a ha
    cases hTop : a.getLsbD n with
    | false =>
      refine ih (by omega) a fun i hi => ?_
      obtain rfl | hlt := Nat.eq_or_lt_of_le hi
      · exact hTop
      · exact ha i hlt
    | true =>
      have hSplit : a = (a ^^^ BitVec.twoPow 64 n) ^^^ BitVec.twoPow 64 n := by
        rw [BitVec.xor_assoc, BitVec.xor_self, BitVec.xor_zero]
      rw [hSplit]
      refine xor _ _ (ih (by omega) _ fun i hi => ?_) (bit n (by omega))
      rw [BitVec.getLsbD_xor, BitVec.getLsbD_twoPow]
      obtain rfl | hlt := Nat.eq_or_lt_of_le hi
      · simp [hTop, show n < 64 by omega]
      · simp [ha i hlt, hlt.ne]

/-- Rotations that make a whole turn together undo each other. -/
theorem rotateLeft_rotateLeft_of_add_eq (x : Word) {j k : Nat} (hj : 0 < j) (hk : 0 < k) (h : j + k = 64) :
    (x.rotateLeft j).rotateLeft k = x := by
  apply BitVec.eq_of_getElem_eq
  intro i hi
  simp only [BitVec.getElem_rotateLeft, Nat.mod_eq_of_lt (by omega : j < 64), Nat.mod_eq_of_lt (by omega : k < 64)]
  split
  · rw [dif_neg (by omega)]
    congr 1
    omega
  · rw [dif_pos (by omega)]
    congr 1
    omega

/-- Adding a word to its own shift can be undone, since the shifts run out. -/
theorem exists_xor_shiftLeft (b : Word) : ∃ a : Word, a ^^^ a <<< 17 = b := by
  have hOut : b <<< 51 <<< 17 = 0 := by
    rw [← BitVec.shiftLeft_add]
    exact BitVec.shiftLeft_eq_zero (by decide)
  refine ⟨b ^^^ (b <<< 17 ^^^ (b <<< 34 ^^^ b <<< 51)), ?_⟩
  have hShift : (b ^^^ (b <<< 17 ^^^ (b <<< 34 ^^^ b <<< 51))) <<< 17 = b <<< 17 ^^^ (b <<< 34 ^^^ b <<< 51) := by
    rw [BitVec.shiftLeft_xor_distrib, BitVec.shiftLeft_xor_distrib, BitVec.shiftLeft_xor_distrib, hOut, ← BitVec.shiftLeft_add,
      ← BitVec.shiftLeft_add, BitVec.ofNat_eq_ofNat, BitVec.xor_zero]
  rw [hShift, BitVec.xor_assoc, BitVec.xor_self, BitVec.xor_zero]

/-- The single bits of the first word generate all arrays under the step and exclusive or. -/
theorem quad_induction {P : Quad → Prop} (xor : ∀ a b, P a → P b → P (quadXor a b)) (step : ∀ a, P a → P (xosT a))
    (bit : ∀ j < 64, P ⟨BitVec.twoPow 64 j, 0, 0, 0⟩) (q : Quad) : P q := by
  have hFirst (a : Word) : P ⟨a, 0, 0, 0⟩ := by
    refine word_induction (P := fun a => P ⟨a, 0, 0, 0⟩) ?_ (fun a b ha hb => by simpa [quadXor] using xor _ _ ha hb) bit a
    simpa [Quad.zero] using xor _ _ (bit 0 (by decide)) (bit 0 (by decide))
  have hMiddle (a : Word) : P ⟨0, a, a, 0⟩ := by
    simpa [xosT_eq, quadXor] using xor _ _ (step _ (hFirst a)) (hFirst a)
  have hLast (a : Word) : P ⟨0, 0, a ^^^ a <<< 17, a.rotateLeft 45⟩ := by
    simpa [xosT_eq, quadXor] using xor _ _ (step _ (hMiddle a)) (hFirst a)
  have hFourth (c : Word) : P ⟨0, 0, 0, c⟩ := by
    have h (a : Word) : P ⟨0, 0, 0, (a.rotateLeft 45).rotateLeft 45⟩ := by
      simpa [xosT_eq, quadXor] using xor _ _ (xor _ _ (step _ (hLast a)) (hFirst (a.rotateLeft 45))) (hMiddle (a ^^^ a <<< 17))
    have hTurn (x : Word) : (x.rotateLeft 19).rotateLeft 45 = x :=
      rotateLeft_rotateLeft_of_add_eq x (by decide) (by decide) (by decide)
    simpa only [hTurn] using h ((c.rotateLeft 19).rotateLeft 19)
  have hThird (b : Word) : P ⟨0, 0, b, 0⟩ := by
    obtain ⟨a, rfl⟩ := exists_xor_shiftLeft b
    simpa [quadXor] using xor _ _ (hLast a) (hFourth (a.rotateLeft 45))
  have hSecond (a : Word) : P ⟨0, a, 0, 0⟩ := by
    simpa [quadXor] using xor _ _ (hMiddle a) (hThird a)
  simpa [quadXor] using xor _ _ (xor _ _ (hFirst q.w0) (hSecond q.w1)) (xor _ _ (hThird q.w2) (hFourth q.w3))

/-! ### Sixty-four arrays side by side -/

/-- Sixty-four words side by side, so that one operation on numbers works on all of them. -/
abbrev WideWord := BitVec (64 * 64)

/-- Word `j` of those side by side. -/
def lane (j : Nat) (x : WideWord) : Word := x.extractLsb' (64 * j) 64

theorem lane_getLsbD (j : Nat) (x : WideWord) {i : Nat} (hi : i < 64) : (lane j x).getLsbD i = x.getLsbD (64 * j + i) := by
  rw [lane, BitVec.getLsbD_extractLsb', decide_eq_true hi, Bool.true_and]

theorem lane_xor (j : Nat) (x y : WideWord) : lane j (x ^^^ y) = lane j x ^^^ lane j y := BitVec.extractLsb'_xor

/-- A shift left in every word: what a word shifts into its neighbour is masked out. -/
def wideShiftLeft (x : WideWord) (k : Nat) : WideWord := x <<< k &&& BitVec.replicate 64 (BitVec.allOnes 64 <<< k)

/-- A shift right in every word. -/
def wideShiftRight (x : WideWord) (k : Nat) : WideWord := x >>> k &&& BitVec.replicate 64 (BitVec.allOnes 64 >>> k)

theorem lane_wideShiftLeft {j : Nat} (hj : j < 64) (x : WideWord) (k : Nat) : lane j (wideShiftLeft x k) = lane j x <<< k := by
  apply BitVec.eq_of_getLsbD_eq
  intro i hi
  have hMod : (64 * j + i) % 64 = i := by omega
  rw [lane_getLsbD j _ hi, wideShiftLeft, BitVec.getLsbD_and, BitVec.getLsbD_replicate, hMod, BitVec.getLsbD_shiftLeft,
    BitVec.getLsbD_shiftLeft, BitVec.getLsbD_shiftLeft, BitVec.getLsbD_allOnes]
  by_cases hk : i < k
  · simp [hk]
  · rw [lane_getLsbD j x (by omega : i - k < 64), show 64 * j + (i - k) = 64 * j + i - k by omega]
    simp [hi, hk, show ¬ 64 * j + i < k by omega, show 64 * j + i < 4096 by omega, show i - k < 64 by omega]

theorem lane_wideShiftRight {j : Nat} (hj : j < 64) (x : WideWord) (k : Nat) : lane j (wideShiftRight x k) = lane j x >>> k := by
  apply BitVec.eq_of_getLsbD_eq
  intro i hi
  have hMod : (64 * j + i) % 64 = i := by omega
  rw [lane_getLsbD j _ hi, wideShiftRight, BitVec.getLsbD_and, BitVec.getLsbD_replicate, hMod, BitVec.getLsbD_ushiftRight,
    BitVec.getLsbD_ushiftRight, BitVec.getLsbD_ushiftRight, BitVec.getLsbD_allOnes]
  by_cases hk : k + i < 64
  · rw [lane_getLsbD j x hk, show 64 * j + (k + i) = k + (64 * j + i) by omega]
    simp [hk, show 64 * j + i < 4096 by omega]
  · rw [BitVec.getLsbD_of_ge (lane j x) (k + i) (by omega)]
    simp [hk]

/-- Sixty-four arrays side by side. -/
structure WideQuad where
  w0 : WideWord
  w1 : WideWord
  w2 : WideWord
  w3 : WideWord

/-- Array `j` of those side by side. -/
def WideQuad.lane (j : Nat) (x : WideQuad) : Quad :=
  ⟨Machine.lane j x.w0, Machine.lane j x.w1, Machine.lane j x.w2, Machine.lane j x.w3⟩

def wideXor (x y : WideQuad) : WideQuad := ⟨x.w0 ^^^ y.w0, x.w1 ^^^ y.w1, x.w2 ^^^ y.w2, x.w3 ^^^ y.w3⟩

/-- The step in every array. -/
def wideStep (x : WideQuad) : WideQuad :=
  ⟨x.w0 ^^^ x.w1 ^^^ x.w3, x.w0 ^^^ x.w1 ^^^ x.w2, x.w0 ^^^ x.w2 ^^^ wideShiftLeft x.w1 17,
    wideShiftLeft (x.w1 ^^^ x.w3) 45 ||| wideShiftRight (x.w1 ^^^ x.w3) 19⟩

theorem lane_wideXor (j : Nat) (x y : WideQuad) : (wideXor x y).lane j = quadXor (x.lane j) (y.lane j) := by
  simp only [WideQuad.lane, wideXor, quadXor, lane_xor]

theorem lane_wideStep {j : Nat} (hj : j < 64) (x : WideQuad) : (wideStep x).lane j = xosT (x.lane j) := by
  have hOr (a b : WideWord) : lane j (a ||| b) = lane j a ||| lane j b := BitVec.extractLsb'_or
  simp only [WideQuad.lane, wideStep, xosT_eq, hOr, lane_xor, lane_wideShiftLeft hj, lane_wideShiftRight hj,
    BitVec.rotateLeft_def]

/-- The steps of every array and, of a polynomial of the step, the terms below `n` in every array. -/
def widePasses (p : Nat) (x : WideQuad) : Nat → WideQuad × WideQuad
  | 0 => (x, ⟨0, 0, 0, 0⟩)
  | n + 1 =>
    let u := widePasses p x n
    (wideStep u.1, if p.testBit n then wideXor u.2 u.1 else u.2)

theorem lane_widePasses {j : Nat} (hj : j < 64) (p n : Nat) (x : WideQuad) :
    (widePasses p x n).1.lane j = xosPower n (x.lane j) ∧ (widePasses p x n).2.lane j = polySum n p (x.lane j) := by
  induction n with
  | zero => exact ⟨rfl, by simp [widePasses, WideQuad.lane, lane, polySum_zero, Quad.zero]⟩
  | succ n ih =>
    obtain ⟨hPower, hSum⟩ := ih
    rw [widePasses, xosPower_succ, polySum_succ, polyTerm, ← hPower, ← hSum]
    refine ⟨lane_wideStep hj _, ?_⟩
    split
    · exact lane_wideXor j _ _
    · exact (quadXor_zero _).symm

/-! ### The characteristic polynomial annihilates the step -/

/-- The characteristic polynomial of the step less its leading term, coefficient `k` at bit `k`. -/
def xosCharLow : Nat := 0x3C03C3F3ECB1904B4EDCF26259F850280002BCEFD1A5E9D116F2BB0F0F001

/-- Array `j` has bit `j` of its first word and no other. -/
def wideBits : WideQuad := ⟨BitVec.ofNat _ ((2 ^ (65 * 64) - 1) / (2 ^ 65 - 1)), 0, 0, 0⟩

theorem lane_wideBits : ∀ j : Fin 64, wideBits.lane j = ⟨BitVec.twoPow 64 j, 0, 0, 0⟩ := by
  decide +kernel

/-- On all the single bits at once, the leading power and the rest are equal. -/
theorem widePasses_wideBits :
    (widePasses xosCharLow wideBits 256).1.w0 = (widePasses xosCharLow wideBits 256).2.w0 ∧
      (widePasses xosCharLow wideBits 256).1.w1 = (widePasses xosCharLow wideBits 256).2.w1 ∧
      (widePasses xosCharLow wideBits 256).1.w2 = (widePasses xosCharLow wideBits 256).2.w2 ∧
      (widePasses xosCharLow wideBits 256).1.w3 = (widePasses xosCharLow wideBits 256).2.w3 := by
  decide +kernel

/-- The 256th power of the step is the rest of its characteristic polynomial. -/
theorem xosPower_256 (q : Quad) : xosPower 256 q = polySum 256 xosCharLow q := by
  refine quad_induction (P := fun q => xosPower 256 q = polySum 256 xosCharLow q) (fun a b ha hb => ?_) (fun a ha => ?_)
    (fun j hj => ?_) q
  · rw [xosPower_quadXor, ha, hb, polySum_quadXor]
  · rw [← xosPower_succ', xosPower_succ, ha, polySum_xosT]
  · obtain ⟨hPower, hSum⟩ := lane_widePasses hj xosCharLow 256 wideBits
    obtain ⟨h0, h1, h2, h3⟩ := widePasses_wideBits
    rw [← lane_wideBits ⟨j, hj⟩, ← hPower, ← hSum]
    simp only [WideQuad.lane, h0, h1, h2, h3]

/-! ### Products of polynomials of the step -/

theorem polyTerm_xor (p r k : Nat) (q : Quad) : polyTerm (p ^^^ r) k q = quadXor (polyTerm p k q) (polyTerm r k q) := by
  unfold polyTerm
  rw [Nat.testBit_xor]
  cases p.testBit k <;> cases r.testBit k <;> simp

theorem polySum_xor (n p r : Nat) (q : Quad) : polySum n (p ^^^ r) q = quadXor (polySum n p q) (polySum n r q) := by
  induction n with
  | zero => rw [polySum_zero, polySum_zero, polySum_zero, quadXor_zero]
  | succ n ih => rw [polySum_succ, polySum_succ, polySum_succ, ih, polyTerm_xor, quadXor_swap]

/-- The lowest term taken out: what is left is one step of the polynomial of the other terms. -/
theorem polySum_succ' (n p : Nat) (q : Quad) :
    polySum (n + 1) p q = quadXor (xosT (polySum n (p / 2) q)) (polyTerm p 0 q) := by
  induction n with
  | zero => rw [polySum_succ, polySum_zero, polySum_zero, xosT_zero]
  | succ n ih =>
    have hTerm : polyTerm p (n + 1) q = xosT (polyTerm (p / 2) n q) := by
      rw [polyTerm, polyTerm, Nat.testBit_succ, xosPower_succ]
      split
      · rfl
      · rw [xosT_zero]
    rw [polySum_succ, ih, polySum_succ, xosT_quadXor, hTerm, quadXor_assoc, quadXor_assoc, quadXor_comm (polyTerm p 0 q)]

theorem polySum_of_testBit_false {n p : Nat} (h : ∀ k < n, p.testBit k = false) (q : Quad) : polySum n p q = Quad.zero := by
  induction n with
  | zero => rfl
  | succ n ih =>
    rw [polySum_succ, ih fun k hk => h k (by omega), polyTerm, h n (by omega), if_neg nofun, quadXor_zero]

/-- The characteristic polynomial of the step, coefficient `k` at bit `k`. -/
def xosChar : Nat := 0x10003C03C3F3ECB1904B4EDCF26259F850280002BCEFD1A5E9D116F2BB0F0F001

theorem xosChar_eq : xosChar = 2 ^ 256 ^^^ xosCharLow := by decide +kernel

/-- The terms of the characteristic polynomial below the leading one. -/
theorem polySum_xosChar (q : Quad) : polySum 256 xosChar q = xosPower 256 q := by
  rw [xosChar_eq, polySum_xor, polySum_of_testBit_false fun k hk => Nat.testBit_two_pow_of_ne (by omega), zero_quadXor,
    xosPower_256]

/-- A polynomial times `x`, modulo the characteristic polynomial. -/
def polyMulX (p : Nat) : Nat := 2 * p ^^^ p / 2 ^ 255 % 2 * xosChar

/-- A polynomial of `n` coefficients times another, modulo the characteristic polynomial. -/
def polyMul : Nat → Nat → Nat → Nat
  | 0, _, _ => 0
  | n + 1, p, r => polyMulX (polyMul n (p / 2) r) ^^^ p % 2 * r

/-- The square of a polynomial modulo the characteristic polynomial. -/
def polySquare (p : Nat) : Nat := polyMul 256 p p

/-- Squarings one after another. The match makes Lean work out each number before it goes on. -/
def polySquares : Nat → Nat → Nat
  | 0, p => p
  | k + 1, 0 => polySquares k (polySquare 0)
  | k + 1, p + 1 => polySquares k (polySquare (p + 1))

/-- A coefficient times a polynomial. -/
theorem polySum_bit_mul (n p k r : Nat) (q : Quad) :
    polySum n (p / 2 ^ k % 2 * r) q = if p.testBit k then polySum n r q else Quad.zero := by
  rw [Nat.testBit_eq_decide_div_mod_eq]
  obtain h | h := Nat.mod_two_eq_zero_or_one (p / 2 ^ k)
  · rw [h, Nat.zero_mul, if_neg (by simp)]
    exact polySum_of_testBit_false (fun k _ => Nat.zero_testBit k) q
  · rw [h, Nat.one_mul, if_pos (by simp)]

theorem polySum_polyMulX (p : Nat) (q : Quad) : polySum 256 (polyMulX p) q = xosT (polySum 256 p q) := by
  have hTop : (2 * p).testBit 256 = p.testBit 255 := by
    rw [Nat.testBit_succ, Nat.mul_div_cancel_left p (by decide)]
  have hLow : polyTerm (2 * p) 0 q = Quad.zero := by
    rw [polyTerm, Nat.testBit_zero, Nat.mul_mod_right, if_neg (by simp)]
  calc polySum 256 (polyMulX p) q
      = quadXor (polySum 256 (2 * p) q) (if p.testBit 255 then xosPower 256 q else Quad.zero) := by
        rw [polyMulX, polySum_xor, polySum_bit_mul, polySum_xosChar]
    _ = polySum 257 (2 * p) q := by
        rw [polySum_succ 256, polyTerm, hTop]
    _ = xosT (polySum 256 p q) := by
        rw [polySum_succ', Nat.mul_div_cancel_left p (by decide), hLow, quadXor_zero]

theorem polySum_polyMul (n p r : Nat) (q : Quad) :
    polySum 256 (polyMul n p r) q = polySum n p (polySum 256 r q) := by
  induction n generalizing p with
  | zero => exact polySum_of_testBit_false (fun k _ => Nat.zero_testBit k) q
  | succ n ih =>
    have hBit := polySum_bit_mul 256 p 0 r q
    rw [Nat.pow_zero, Nat.div_one] at hBit
    rw [polyMul, polySum_xor, polySum_polyMulX, ih, hBit, polySum_succ' n]
    rfl

/-! ### Powers of the step -/

/-- The polynomial is the power of the step. -/
def IsPower (m p : Nat) : Prop := ∀ q, xosPower m q = polySum 256 p q

theorem IsPower.square {m p : Nat} (h : IsPower m p) : IsPower (2 * m) (polySquare p) := by
  intro q
  rw [polySquare, polySum_polyMul, ← h, ← h, Nat.two_mul]
  exact Function.iterate_add_apply ..

theorem isPower_one : IsPower 1 2 := by
  intro q
  have hRest : polySum 254 (2 / 2 / 2) q = Quad.zero := polySum_of_testBit_false (fun k _ => Nat.zero_testBit k) q
  rw [polySum_succ' 255, polySum_succ' 254, hRest, xosT_zero, zero_quadXor]
  exact (quadXor_zero (xosT q)).symm

theorem IsPower.squares {m p : Nat} (h : IsPower m p) (k : Nat) : IsPower (2 ^ k * m) (polySquares k p) := by
  induction k generalizing m p with
  | zero => rwa [Nat.pow_zero, Nat.one_mul]
  | succ k ih =>
    have hSquare := ih h.square
    rw [← Nat.mul_assoc, ← Nat.pow_succ] at hSquare
    cases p <;> exact hSquare

theorem polySquares_jumpPoly : polySquares 128 2 = polyNat Params.default.jumpPoly := by
  decide +kernel

theorem polySquares_longJumpPoly :
    polySquares 64 (polyNat Params.default.jumpPoly) = polyNat Params.default.longJumpPoly := by
  decide +kernel

theorem isPower_jumpPoly : IsPower (2 ^ 128) (polyNat Params.default.jumpPoly) := by
  have h := isPower_one.squares 128
  rwa [polySquares_jumpPoly, Nat.mul_one] at h

theorem isPower_longJumpPoly : IsPower (2 ^ 192) (polyNat Params.default.longJumpPoly) := by
  have h := isPower_jumpPoly.squares 64
  rwa [polySquares_longJumpPoly, ← Nat.pow_add] at h

/-- Settles O50: a jump evaluates its polynomial (`exec_xosJump`), and the default polynomials are the powers of the step. -/
theorem xosJumpsAdvanceTheStatedDistances : Obligations.XosJumpsAdvanceTheStatedDistances := by
  intro s
  refine ⟨fun hPoly => ⟨_, exec_xosJump s, ?_⟩, fun hPoly => ⟨_, exec_xosLjump s, ?_⟩⟩
  · dsimp only
    rw [hPoly, polyEval_eq_polySum, isPower_jumpPoly]
  · dsimp only
    rw [hPoly, polyEval_eq_polySum, isPower_longJumpPoly]

end Sys2Proof.Machine
end

section
/-! SUPPORT. The squaring engine's modulus and its filter (44_bbs.md section 1, section 3): the two prime factors of `2^64 + 1`, from them the
square roots of -1 and the idempotents that a state of 64 bits can be, and how many squarings the filter runs. -/

namespace Sys2Proof.Machine

/-! ### The filter -/

/-- The loop of the filter at any bound of two or more squarings: one squaring, or two where the first gives `2^64` (R182, R188). -/
theorem bbsLoop_add_two (n : Nat) (c : Int) :
    bbsLoop (n + 2) c = if bbsSquare c = Config.bbsR then (1, 2) else (bbsSquare c, 1) := by
  have hOne : (1 : Int) ≠ Config.bbsR := by decide
  simp only [bbsLoop]
  by_cases hReject : bbsSquare c = Config.bbsR
  · simp only [hReject, bbsSquare_bound, if_pos, if_neg hOne]
  · simp only [if_neg hReject]

theorem bbsLoop_add_two_eq (n : Nat) (c : Int) : bbsLoop (n + 2) c = (bbsNext c, bbsSquarings c) := by
  rw [bbsNext, bbsSquarings, bbsLoop_add_two, bbsLoop_add_two 0]

theorem bbsSquarings_eq (c : Int) : bbsSquarings c = if bbsSquare c = Config.bbsR then 2 else 1 := by
  rw [bbsSquarings, bbsLoop_add_two 0]
  split <;> rfl

theorem bbsSquarings_eq_two_iff (c : Int) : bbsSquarings c = 2 ↔ bbsSquare c = Config.bbsR := by
  rw [bbsSquarings_eq]
  split <;> simp [*]

theorem bbsSquarings_eq_one_or_two (c : Int) : bbsSquarings c = 1 ∨ bbsSquarings c = 2 := by
  rw [bbsSquarings_eq]
  split <;> simp

/-- Settles O56: the loop has two cases (`bbsLoop_add_two`), whose values the filter lets through (`bbsNext_range`). -/
theorem bbsRejectionLoopStopsAfterTwo : Obligations.BbsRejectionLoopStopsAfterTwo := by
  intro c n
  refine ⟨bbsLoop_add_two_eq n c, bbsSquarings_eq_one_or_two c, (bbsNext_range c).2.ne, fun hTwo => ?_⟩
  rw [bbsNext_eq, if_pos ((bbsSquarings_eq_two_iff c).mp hTwo)]

/-! ### The factors of the modulus -/

/-- The larger prime factor of `2^64 + 1`. -/
def bbsP : Nat := 67280421310721

/-- The smaller prime factor of `2^64 + 1`. -/
def bbsQ : Nat := 274177

theorem prime_bbsQ : bbsQ.Prime := by
  rw [bbsQ]
  norm_num

theorem eq_of_prime_dvd_bbsP_pred {q : Nat} (hq : q.Prime) (h : q ∣ bbsP - 1) :
    q = 2 ∨ q = 5 ∨ q = 47 ∨ q = 373 ∨ q = 2998279 := by
  have hFactors : bbsP - 1 = 2 ^ 8 * (5 * (47 * (373 * 2998279))) := by norm_num [bbsP]
  have hEq {r : Nat} (hr : r.Prime) (h : q ∣ r) : q = r := (Nat.prime_dvd_prime_iff_eq hq hr).mp h
  rw [hFactors, hq.dvd_mul, hq.dvd_mul, hq.dvd_mul, hq.dvd_mul] at h
  exact h.imp (fun h => hEq Nat.prime_two (hq.dvd_of_dvd_pow h))
    (Or.imp (hEq (by norm_num)) (Or.imp (hEq (by norm_num)) (Or.imp (hEq (by norm_num)) (hEq (by norm_num)))))

/-- By Lucas's test with the base 3. -/
theorem prime_bbsP : bbsP.Prime := by
  refine lucas_primality bbsP 3 ?_ fun q hq hDvd => ?_
  · rw [bbsP]
    reduce_mod_char
  · obtain rfl | rfl | rfl | rfl | rfl := eq_of_prime_dvd_bbsP_pred hq hDvd
    all_goals
      rw [bbsP]
      norm_num
      reduce_mod_char
      decide

theorem bbsM_eq : Config.bbsM = bbsP * bbsQ := by
  rw [Config.bbsM, bbsP, bbsQ]
  norm_num

theorem isCoprime_bbsP_bbsQ : IsCoprime (bbsP : Int) bbsQ :=
  Nat.isCoprime_iff_coprime.mpr ((Nat.coprime_primes prime_bbsP prime_bbsQ).mpr (by decide))

/-! ### States by their residues -/

/-- Where the modulus divides a product, each of its prime factors divides one factor. -/
theorem dvd_or_dvd_of_bbsM_dvd_mul {x y : Int} (h : Config.bbsM ∣ x * y) :
    ((bbsP : Int) ∣ x ∨ (bbsP : Int) ∣ y) ∧ ((bbsQ : Int) ∣ x ∨ (bbsQ : Int) ∣ y) := by
  rw [bbsM_eq] at h
  exact ⟨(Nat.prime_iff_prime_int.mp prime_bbsP).dvd_or_dvd (dvd_of_mul_right_dvd h),
    (Nat.prime_iff_prime_int.mp prime_bbsQ).dvd_or_dvd (dvd_of_mul_left_dvd h)⟩

/-- A state of 64 bits is the integer with its two residues (the Chinese remainder theorem). -/
theorem eq_of_bbs_residues {c r x y : Int} (h0 : 0 ≤ c) (hc : c < 2 ^ 64) (hP : (bbsP : Int) ∣ c - x) (hQ : (bbsQ : Int) ∣ c - y)
    (hr : 0 ≤ r ∧ r < 2 ^ 64 ∧ (bbsP : Int) ∣ x - r ∧ (bbsQ : Int) ∣ y - r) : c = r := by
  obtain ⟨hr0, hr64, hPr, hQr⟩ := hr
  have hPc : (bbsP : Int) ∣ c - r := by simpa using dvd_add hP hPr
  have hQc : (bbsQ : Int) ∣ c - r := by simpa using dvd_add hQ hQr
  have hM : Config.bbsM ∣ c - r := bbsM_eq ▸ isCoprime_bbsP_bbsQ.mul_dvd hPc hQc
  have hLt : |c - r| < Config.bbsM := by
    rw [abs_lt, show Config.bbsM = 2 ^ 64 + 1 from rfl]
    omega
  exact sub_eq_zero.mp (Int.eq_zero_of_abs_lt_dvd hM hLt)

/-- The four square roots of -1 (44_bbs.md section 1): modulo each prime factor a root is `2^32` or its negative. -/
theorem bbsSquare_eq_bbsR_iff {c : Int} (h0 : 0 ≤ c) (hc : c < 2 ^ 64) :
    bbsSquare c = Config.bbsR ↔
      c ∈ ([0x0000000100000000, 0x13A1CDE551C61422, 0xEC5E321AAE39EBDF, 0xFFFFFFFF00000001] : List Int) := by
  simp only [List.mem_cons, List.not_mem_nil, or_false]
  constructor
  · intro h
    have hProduct : (c - 2 ^ 32) * (c - -2 ^ 32) = c * c - Config.bbsR := by
      rw [Config.bbsR]
      ring
    obtain ⟨hP | hP, hQ | hQ⟩ := dvd_or_dvd_of_bbsM_dvd_mul (hProduct ▸ Int.dvd_self_sub_of_emod_eq h)
    · exact .inl (eq_of_bbs_residues h0 hc hP hQ (by decide))
    · exact .inr (.inl (eq_of_bbs_residues h0 hc hP hQ (by decide)))
    · exact .inr (.inr (.inl (eq_of_bbs_residues h0 hc hP hQ (by decide))))
    · exact .inr (.inr (.inr (eq_of_bbs_residues h0 hc hP hQ (by decide))))
  · rintro (rfl | rfl | rfl | rfl) <;> decide

/-- The four idempotents (44_bbs.md section 1): modulo each prime factor an idempotent is 0 or 1. -/
theorem bbsSquare_eq_self_iff {c : Int} (h0 : 0 ≤ c) (hc : c < 2 ^ 64) :
    bbsSquare c = c ↔ c ∈ ([0, 1, 0x28E30A10F62F190E, 0xD71CF5EF09D0E6F4] : List Int) := by
  simp only [List.mem_cons, List.not_mem_nil, or_false]
  constructor
  · intro h
    have hProduct : (c - 0) * (c - 1) = c * c - c := by ring
    obtain ⟨hP | hP, hQ | hQ⟩ := dvd_or_dvd_of_bbsM_dvd_mul (hProduct ▸ Int.dvd_self_sub_of_emod_eq h)
    · exact .inl (eq_of_bbs_residues h0 hc hP hQ (by decide))
    · exact .inr (.inr (.inl (eq_of_bbs_residues h0 hc hP hQ (by decide))))
    · exact .inr (.inr (.inr (eq_of_bbs_residues h0 hc hP hQ (by decide))))
    · exact .inr (.inl (eq_of_bbs_residues h0 hc hP hQ (by decide)))
  · rintro (rfl | rfl | rfl | rfl) <;> decide

/-- Settles O57: the second squaring runs exactly where the first gives `2^64` (`bbsSquarings_eq_two_iff`). -/
theorem bbsRejectsExactlyTheFourRoots : Obligations.BbsRejectsExactlyTheFourRoots :=
  fun s h0 hc => (bbsSquarings_eq_two_iff s.bbsC.toInt).trans (bbsSquare_eq_bbsR_iff h0 hc)

/-- The filter changes no fixed point: a rejected state is not 1, and 1 is its own square. -/
theorem bbsNext_eq_self_iff {c : Int} (hc : c < 2 ^ 64) : bbsNext c = c ↔ bbsSquare c = c := by
  rw [bbsNext_eq]
  split
  case isTrue hReject =>
    rw [hReject]
    refine iff_of_false ?_ hc.ne'
    rintro rfl
    exact absurd hReject (by decide)
  case isFalse => rfl

/-- `BBS_C` after `BBS.NEXT` holds the value the filter stops at. -/
theorem bbsHold_bbsNext_toInt (c : Int) : (bbsHold (bbsNext c)).toInt = bbsNext c := by
  obtain ⟨hlo, hhi⟩ := bbsNext_range c
  exact bbsHold_toInt (by omega) (by omega)

/-- Settles O58: `BBS_C` is unchanged where the filter's value is the state itself, so where the state is its own square. -/
theorem bbsHasExactlyFourFixedPoints : Obligations.BbsHasExactlyFourFixedPoints := by
  intro s h0 hc
  refine ⟨_, exec_bbsNext s, ?_⟩
  rw [← bbsSquare_eq_self_iff h0 hc, ← bbsNext_eq_self_iff hc, ← BitVec.toInt_inj, bbsHold_bbsNext_toInt]

/-! ### A state put out and loaded -/

/-- The seed value of the word that `BBS.GETST` puts out, from a state at rest (R180, R184). -/
theorem seedValue_ofInt {p : Params} {c : Int} (hlo : (if p.bbsSeedSigned then -(2 ^ 63) else 0) ≤ c) (hhi : c < 2 ^ 64) :
    seedValue p (BitVec.ofInt 64 c) = if p.bbsSeedSigned = true ∧ 2 ^ 63 ≤ c then c - 2 ^ 64 else c := by
  unfold seedValue
  cases hSigned : p.bbsSeedSigned with
  | false =>
    simp only [hSigned, Bool.false_eq_true, if_false, false_and] at hlo ⊢
    rw [BitVec.toNat_ofInt]
    omega
  | true =>
    simp only [hSigned, if_true, true_and] at hlo ⊢
    rw [BitVec.toInt_ofInt, Int.bmod_def]
    split <;> omega

/-- Settles O59: the load takes the integer that `seedValue_ofInt` says, and `BBS_C` holds it exactly. -/
theorem bbsRoundTripAtRest : Obligations.BbsRoundTripAtRest := by
  intro s hRest
  obtain ⟨hlo, hhi⟩ := hRest
  have hInt : (bbsHold (seedValue s.params (BitVec.ofInt 64 s.bbsC.toInt))).toInt =
      if s.params.bbsSeedSigned = true ∧ 2 ^ 63 ≤ s.bbsC.toInt then s.bbsC.toInt - 2 ^ 64 else s.bbsC.toInt := by
    rw [bbsHold_seedValue_toInt, seedValue_ofInt hlo hhi]
  refine ⟨_, _, exec_bbsGetst s, exec_bbsSetst _, rfl, fun hKept => ?_, fun hSigned => ?_⟩
  · rw [← BitVec.toInt_inj]
    refine hInt.trans (if_neg ?_)
    rintro ⟨hSigned, hHigh⟩
    obtain hUnsigned | hLow := hKept
    · rw [hUnsigned] at hSigned
      cases hSigned
    · omega
  · exact hInt.trans (if_pos hSigned)

end Sys2Proof.Machine
end

section
/-! SUPPORT. Particular Xoshiro states (43_xoshiro.md sections 1 and 3): the zero state, which every step and jump fixes and no other state
steps to, and the spec's computed jumps from `(1, 2, 3, 4)`. -/

namespace Sys2Proof.Machine

/-! ### The zero state -/

theorem polyEval_quad_zero (p : Quad) : polyEval p Quad.zero = Quad.zero := by
  rw [polyEval_eq_polySum, polySum_quad_zero]

/-- A word that is its own shift is zero, since its shifts run out. -/
theorem eq_zero_of_eq_shiftLeft {x : Word} (h : x = x <<< 17) : x = 0 := by
  have hOut : x <<< 17 <<< 17 <<< 17 <<< 17 = 0 := by
    rw [← BitVec.shiftLeft_add, ← BitVec.shiftLeft_add, ← BitVec.shiftLeft_add]
    exact BitVec.shiftLeft_eq_zero (by decide)
  rwa [← h, ← h, ← h, ← h] at hOut

/-- No other state steps to the zero state: its words give back those before it one after another (R162). -/
theorem eq_zero_of_xosT_eq_zero {q : Quad} (h : xosT q = Quad.zero) : q = Quad.zero := by
  obtain ⟨a, b, c, d⟩ := q
  simp only [xosT_eq, Quad.zero, Quad.mk.injEq] at h ⊢
  obtain ⟨h0, h1, h2, h3⟩ := h
  have hTurn : b ^^^ d = 0 := by
    rw [← rotateLeft_rotateLeft_of_add_eq (b ^^^ d) (j := 45) (k := 19) (by decide) (by decide) (by decide), h3]
    decide
  obtain rfl : b = d := BitVec.xor_eq_zero_iff.mp hTurn
  obtain rfl : a = 0 := by rwa [BitVec.xor_assoc, BitVec.xor_self, BitVec.xor_zero] at h0
  obtain rfl : b = c := by rwa [BitVec.ofNat_eq_ofNat, BitVec.zero_xor, BitVec.xor_eq_zero_iff] at h1
  rw [BitVec.ofNat_eq_ofNat, BitVec.zero_xor, BitVec.xor_eq_zero_iff] at h2
  obtain rfl : b = 0 := eq_zero_of_eq_shiftLeft h2
  exact ⟨rfl, rfl, rfl, rfl⟩

/-- Settles O52: the zero state is fixed by the step (`xosT_zero`) and by every polynomial of it (`polyEval_quad_zero`), and only the
zero state steps to it (`eq_zero_of_xosT_eq_zero`). -/
theorem xosZeroIsAFixedPointReachedFromNoOther : Obligations.XosZeroIsAFixedPointReachedFromNoOther := by
  refine ⟨fun s hZero => ?_, fun s t hExec hZero => ?_⟩
  · refine ⟨_, _, _, _, exec_xosGen64 s, ?_, ?_, exec_xosGen32 s, ?_, exec_xosJump s, ?_, exec_xosLjump s, ?_⟩
    all_goals dsimp only; rw [hZero]
    · exact xosT_zero
    · decide
    · exact xosT_zero
    · exact polyEval_quad_zero _
    · exact polyEval_quad_zero _
  · cases (exec_xosGen64 s).symm.trans hExec
    exact eq_zero_of_xosT_eq_zero hZero

/-! ### Jumps from `(1, 2, 3, 4)` -/

/-- A polynomial of the step as the jump unit's loop works it out. -/
theorem polyEval_eq_xorJump (p q : Quad) : polyEval p q = (xorJump p q 0).xa := by
  rw [xorJump_eq_polyEval]

theorem polyEval_longJumpPoly_first : polyEval Params.default.longJumpPoly ⟨1, 2, 3, 4⟩ =
    ⟨0x096A8EB71295A400, 0xDBF84991E50F4516, 0x534EE745810D2A0E, 0x31655CA1A2215BF1⟩ := by
  rw [polyEval_eq_xorJump]
  decide +kernel

/-- The first jump, the child of the spec's vector V-X12. -/
theorem polyEval_jumpPoly_first : polyEval Params.default.jumpPoly ⟨1, 2, 3, 4⟩ =
    ⟨0x8C7A153956B5F3D1, 0x701F1A713401D85E, 0x6527F66A65469085, 0x8386B786C4408050⟩ := by
  rw [polyEval_eq_xorJump]
  decide +kernel

theorem polyEval_jumpPoly_second : polyEval Params.default.jumpPoly
      ⟨0x8C7A153956B5F3D1, 0x701F1A713401D85E, 0x6527F66A65469085, 0x8386B786C4408050⟩ =
    ⟨0x46F0982578DE9FF7, 0xB1BA9F06C0B88626, 0x0F85ED0825D9669D, 0x9764A25D66E64F2C⟩ := by
  rw [polyEval_eq_xorJump]
  decide +kernel

theorem polyEval_jumpPoly_third : polyEval Params.default.jumpPoly
      ⟨0x46F0982578DE9FF7, 0xB1BA9F06C0B88626, 0x0F85ED0825D9669D, 0x9764A25D66E64F2C⟩ =
    ⟨0xBDFA9347DB2D049D, 0x584101964889DF44, 0x07EDCDD8DBB0B142, 0xC70EE2F6FA675B99⟩ := by
  rw [polyEval_eq_xorJump]
  decide +kernel

/-- What a jump makes of `XS`, and that the next jump has the same polynomial. -/
theorem exec_xosJump_xs (s : State) :
    ∃ t, exec .xosJump s = .next t ∧ t.xs = polyEval s.params.jumpPoly s.xs ∧ t.params = s.params := by
  refine ⟨_, exec_xosJump s, ?_⟩
  dsimp only
  exact ⟨rfl, rfl⟩

/-- Settles O51: the jumps evaluate their polynomials, which Lean's kernel works out on the numerals. -/
theorem xosLongJumpIsNotThreeJumps : Obligations.XosLongJumpIsNotThreeJumps := by
  intro s hXs hJump hLong
  refine ⟨⟨_, exec_xosLjump s, ?_⟩, ?_⟩
  · dsimp only
    rw [hXs, hLong, polyEval_longJumpPoly_first]
  · obtain ⟨t, hExec, hFirst, hParams⟩ := exec_xosJump_xs s
    obtain ⟨u, hExec', hSecond, hParams'⟩ := exec_xosJump_xs t
    obtain ⟨v, hExec'', hThird, -⟩ := exec_xosJump_xs u
    refine ⟨v, by simp only [runCommands, hExec, hExec', hExec''], ?_⟩
    rw [hThird, hParams', hSecond, hParams, hFirst, hXs, hJump, polyEval_jumpPoly_first, polyEval_jumpPoly_second,
      polyEval_jumpPoly_third]

end Sys2Proof.Machine
end

section
/-! SUPPORT. The engine steps (70_reset_and_hazards.md R243): the table of counts, and for each command that runs its engine, that its next
state is that many steps on. -/

namespace Sys2Proof.Machine

theorem engineSteps_pcgSeed_of_enough {s : State} (h : 8 ≤ s.sbLen.toNat) : engineSteps .pcgSeed s = 1 :=
  if_neg (by rw [tooShort_iff]; omega)

theorem engineSteps_pcgSeed_of_short {s : State} (h : s.sbLen.toNat < 8) : engineSteps .pcgSeed s = 0 :=
  if_pos (tooShort_iff.mpr h)

/-- No command runs more than the 256 steps of a jump. -/
theorem engineSteps_le (i : Instr) (s : State) : engineSteps i s ≤ 256 := by
  cases i
  case pcgSeed =>
    rw [engineSteps]
    split <;> decide
  case bbsNext =>
    obtain h | h := bbsSquarings_eq_one_or_two s.bbsC.toInt <;> rw [engineSteps, h] <;> decide
  all_goals simp only [engineSteps]; decide

/-- Past its length check only `BBS.NEXT` runs a number of steps that depends on data. -/
theorem engineSteps_data_independent {i : Instr} {s t : State} (hNext : i ≠ .bbsNext) (hs : minLen i ≤ s.sbLen.toNat)
    (ht : minLen i ≤ t.sbLen.toNat) : engineSteps i s = engineSteps i t := by
  cases i
  case pcgSeed => rw [engineSteps_pcgSeed_of_enough hs, engineSteps_pcgSeed_of_enough ht]
  case bbsNext => exact absurd rfl hNext
  all_goals rfl

/-- `BBS.NEXT` makes the squarings it is counted for, and its value is where the loop stops. -/
theorem bbsSquare_iterate_bbsSquarings (c : Int) : bbsSquare^[bbsSquarings c] c = bbsNext c := by
  rw [bbsSquarings_eq, bbsNext_eq]
  split
  case isTrue hReject => exact (congrArg bbsSquare hReject).trans bbsSquare_bound
  case isFalse => rfl

theorem bbsLoop_bbsSquarings (c : Int) : bbsLoop (bbsSquarings c) c = (bbsNext c, bbsSquarings c) := by
  rw [bbsSquarings_eq, bbsNext_eq]
  split
  case isTrue hReject => rw [bbsLoop_add_two 0, if_pos hReject]
  case isFalse hAccept => simp only [bbsLoop, if_neg hAccept]

/-- The counts of R243's table. -/
theorem engineSteps_table (s : State) :
    (∀ i ∈ [Instr.lcgSeed, .lcgSetst, .lcgGetst, .pcgSetst, .pcgGetst, .xosSeed, .xosSetst, .xosGetst, .bbsSeed, .bbsSetst,
      .bbsGetst], engineSteps i s = 0) ∧
    (∀ i ∈ [Instr.lcgGen32, .lcgGen64, .pcgGen32, .xosGen32, .xosGen64], engineSteps i s = 1) ∧
    (∀ i ∈ [Instr.xosJump, .xosLjump, .xosSplit], engineSteps i s = 256) := by
  simp [engineSteps]

theorem exec_lcg_engineSteps (s : State) :
    ∀ i ∈ [Instr.lcgGen32, .lcgGen64], ∃ t, exec i s = .next t ∧ t.lcgS = lcgAdvance^[engineSteps i s] s.lcgS := by
  simp only [List.forall_mem_cons]
  exact ⟨⟨_, exec_lcgGen32 s, rfl⟩, ⟨_, exec_lcgGen64 s, rfl⟩, nofun⟩

theorem exec_pcg_engineSteps (s : State) :
    ∀ i ∈ [Instr.pcgGen32, .pcgGen64], ∃ t, exec i s = .next t ∧ t.pcgS = lcgAdvance^[engineSteps i s] s.pcgS := by
  simp only [List.forall_mem_cons]
  exact ⟨⟨_, exec_pcgGen32 s, rfl⟩, ⟨_, exec_pcgGen64 s, rfl⟩, nofun⟩

theorem exec_pcgSeed_engineSteps {s : State} (h : 8 ≤ s.sbLen.toNat) :
    ∃ t, exec .pcgSeed s = .next t ∧ t.pcgS = lcgAdvance^[engineSteps .pcgSeed s] (Config.lcgInc + s.sb.w0) := by
  rw [engineSteps_pcgSeed_of_enough h]
  exact ⟨_, exec_of_enough h, rfl⟩

theorem exec_xos_engineSteps (s : State) :
    ∀ i ∈ [Instr.xosGen32, .xosGen64], ∃ t, exec i s = .next t ∧ t.xs = xosPower (engineSteps i s) s.xs := by
  simp only [List.forall_mem_cons]
  exact ⟨⟨_, exec_xosGen32 s, rfl⟩, ⟨_, exec_xosGen64 s, rfl⟩, nofun⟩

/-- The two jumps and the split make the 256 passes of the loop. -/
theorem exec_jump_engineSteps (s : State) :
    ∀ i ∈ [Instr.xosJump, .xosLjump, .xosSplit], ∃ t, exec i s = .next t ∧ t.xw = xosPower (engineSteps i s) s.xs ∧
      t.xa = (jumpPasses (if i = .xosLjump then s.params.longJumpPoly else s.params.jumpPoly) (engineSteps i s)
        ⟨s.xs, Quad.zero, s.xj⟩).xa ∧ (if i = .xosSplit then t.rb else t.xs) = t.xa := by
  have hXw (poly : Quad) : (xorJump poly s.xs s.xj).xw = xosPower 256 s.xs := by rw [xorJump_eq_polyEval]
  have hXa (poly : Quad) : (xorJump poly s.xs s.xj).xa = (jumpPasses poly 256 ⟨s.xs, Quad.zero, s.xj⟩).xa := by rw [xorJump_eq]
  simp only [List.forall_mem_cons]
  refine ⟨⟨_, exec_of_minLen_zero s rfl, ?_⟩, ⟨_, exec_of_minLen_zero s rfl, ?_⟩, ⟨_, exec_of_minLen_zero s rfl, ?_⟩, nofun⟩
  all_goals simp [commandEffect, putQuad, engineSteps, hXw, hXa]

theorem exec_bbsNext_engineSteps (s : State) :
    ∃ t, exec .bbsNext s = .next t ∧ t.bbsC.toInt = bbsSquare^[engineSteps .bbsNext s] s.bbsC.toInt ∧
      bbsLoop (engineSteps .bbsNext s) s.bbsC.toInt = (t.bbsC.toInt, engineSteps .bbsNext s) ∧
      (engineSteps .bbsNext s = 2 ↔ bbsSquare s.bbsC.toInt = Config.bbsR) := by
  refine ⟨_, exec_bbsNext s, ?_⟩
  dsimp only [engineSteps]
  rw [bbsHold_bbsNext_toInt, bbsSquare_iterate_bbsSquarings, bbsLoop_bbsSquarings]
  exact ⟨rfl, rfl, bbsSquarings_eq_two_iff _⟩

/-- Settles O23: the table is `engineSteps_table`, and each command that runs its engine leaves the state its count says. -/
theorem engineStepsAreBounded : Obligations.EngineStepsAreBounded := by
  refine ⟨fun s => ?_, fun s => ?_, engineSteps_le, fun i s t => engineSteps_data_independent⟩
  · obtain ⟨hNone, hOne, hJump⟩ := engineSteps_table s
    exact ⟨hNone, hOne, engineSteps_pcgSeed_of_enough, engineSteps_pcgSeed_of_short, rfl, hJump, bbsSquarings_eq_one_or_two _⟩
  · exact ⟨exec_lcg_engineSteps s, exec_pcg_engineSteps s, exec_pcgSeed_engineSteps, exec_xos_engineSteps s,
      exec_jump_engineSteps s, exec_bbsNext_engineSteps s⟩

end Sys2Proof.Machine
end
